-- ==== Sys2Proof/Word.lean ====
section
/-! DEFINITION. The one word of the block: every code, command byte and the data bus is an 8-bit unsigned
value, bit 0 least significant (spec/00_scope.md R6). -/

namespace Sys2Proof

/-- An 8-bit unsigned value: a character code, a controller command byte, a frame byte, the data bus (R6). -/
abbrev Byte := BitVec 8

end Sys2Proof
end

