-- ==== Sys2Proof/Config.lean ====
section
/-! DEFINITION. Every constant of spec/00_scope.md R5: the sizes and widths as `abbrev`s, because types are made of them,
and everything else in ONE record (93_implementation_defined.md U5); and the one free value of the spec (R232, U10). -/

namespace Sys2Proof.Config

/-- N_LINES: the number of output lines (R5, R21). -/
abbrev nLines : Nat := 12

/-- DATA_WIDTH: the number of data lines D0..D7 (R5). -/
abbrev dataWidth : Nat := 8

/-- BUF_DEPTH: the number of entries of the operand buffer (R5, R29). -/
abbrev bufDepth : Nat := 16

/-- ARRAY_LEN: the fixed length of the WRITE_CHAR_ARRAY operand (R5, R160). -/
abbrev arrayLen : Nat := 5

/-- N_INIT_CMDS: the number of controller command writes in RESET_LCD (R5, R54). -/
abbrev nInitCmds : Nat := 4

/-- The widths in bits of the sequencer's registers: TMR_WIDTH and LEN_WIDTH of R5, UPC of R27. -/
abbrev tmrWidth : Nat := 8
/-- LEN_WIDTH (R5). -/
abbrev lenWidth : Nat := 8
/-- The width of UPC (R20, R27). -/
abbrev upcWidth : Nat := 7

/-- The four controller command bytes of RESET_LCD (R83), the parameters the spec leaves open with a default (U4). -/
structure CmdBytes where
  functionSet  : Byte
  clearDisplay : Byte
  returnHome   : Byte
  displayOn    : Byte
deriving DecidableEq, Repr

/-- The line index map of R5: the index in LINE of each role (R21, R52). -/
structure LineMap where
  led  : Fin nLines
  /-- Element `k` is the index of data line `Dk`, D0 first. -/
  data : Vector (Fin nLines) dataWidth
  e    : Fin nLines
  rw   : Fin nLines
  rs   : Fin nLines
deriving DecidableEq, Repr

/-- The values of R5. -/
structure Params where
  /-- MAX_STR_LEN: the longest string WRITE_STRING transmits. -/
  maxStrLen  : Nat
  /-- T_SETTLE, in ticks. -/
  tSettle    : BitVec tmrWidth
  /-- T_CMD_HIGH, in ticks. -/
  tCmdHigh   : BitVec tmrWidth
  /-- T_CMD_LOW, in ticks. -/
  tCmdLow    : BitVec tmrWidth
  /-- T_CHR_HIGH, in ticks. -/
  tChrHigh   : BitVec tmrWidth
  /-- T_CHR_LOW, in ticks. -/
  tChrLow    : BitVec tmrWidth
  /-- MASK: the Bit Mask Set, element `k` being `MASK[k]` (R31). -/
  masks      : Vector Byte dataWidth
  /-- The line index map (R21). -/
  lineIndex  : LineMap
  /-- CMD_*: the bytes RESET_LCD sends. -/
  cmds       : CmdBytes
  /-- TICK: the period of the delay timer's tick, in milliseconds. -/
  tickMs     : Nat
  /-- LINE_RESET: the twelve lines after hardware reset, index 0 first. -/
  lineReset  : Vector Bool nLines
deriving DecidableEq, Repr

/-- The one configuration. Mark PRESUMED (unsafe): the four command bytes are the spec's general-knowledge defaults
(D12 to D15), notes/assumptions/1.md. The reset level of the lines is the spec's decision D7. -/
def params : Params where
  maxStrLen := 16
  tSettle   := 1#8
  tCmdHigh  := 1#8
  tCmdLow   := 2#8
  tChrHigh  := 10#8
  tChrLow   := 20#8
  masks     := #v[0x01#8, 0x02#8, 0x04#8, 0x08#8, 0x10#8, 0x20#8, 0x40#8, 0x80#8]
  lineIndex := { led := 0, data := #v[8, 7, 6, 5, 4, 3, 2, 1], e := 9, rw := 10, rs := 11 }
  cmds      := { functionSet := 0x3C#8, clearDisplay := 0x01#8, returnHome := 0x02#8, displayOn := 0x0F#8 }
  tickMs    := 1
  lineReset := Vector.replicate nLines false

/-- FREE VALUE (R232, U10): the 10-bit bus word the display latches when hardware reset pulls E down while it is 1, on
the n-th such occasion. It has no body, so nothing can be proved of its value; notes/assumptions/2.md. -/
opaque resetLatchWord : Nat → BitVec 10

end Sys2Proof.Config
end

