-- ==== Sys2Proof/Syntax.lean ====
section
/-! DEFINITION. The commands of the block (spec/30_encoding.md R70), which are its instructions, the two-bit operation
number each has (R26, R71), and the reasons a frame is refused (R78 to R80). -/

namespace Sys2Proof

/-- The four commands with their operands (R70): a string is a list of 8-bit codes of any length, the array has
exactly ARRAY_LEN = 5. -/
inductive Instr where
  /-- RESET_LCD (R170). -/
  | resetLcd
  /-- CLEAR_DATA_BITS (R140). -/
  | clearDataBits
  /-- WRITE_STRING s (R150). -/
  | writeString (s : List Byte)
  /-- WRITE_CHAR_ARRAY a (R160). -/
  | writeCharArray (a : Vector Byte Config.arrayLen)
deriving DecidableEq, Repr

/-- What the 2-bit register OP holds: which command is in progress (R26). All four bit patterns are used. -/
inductive Op where
  | resetLcd
  | clearDataBits
  | writeString
  | writeCharArray
deriving DecidableEq, Repr

/-- Why the decoder gives a byte string no meaning (R78, R79, R80). -/
inductive FrameRefusal where
  /-- `Decode([])` (R78). -/
  | empty
  /-- An opcode byte 0x04 to 0xFF (R79). -/
  | reservedOpcode
  /-- A frame cut short (R80). -/
  | truncated
deriving DecidableEq, Repr

end Sys2Proof
end

