-- ==== Sys2Proof/WellFormed.lean ====
section
/-! DEFINITION. Which abstract commands have a frame: a string of more than 255 codes has none (spec/30_encoding.md
R73, R88). Every other command has one. -/

namespace Sys2Proof

/-- The largest length byte (R73: `L` is unsigned 8 bits, 0..255). -/
def maxFrameLen : Nat := 255

/-- A command is well formed when a frame can carry it (R73). The meaning of a command does not depend on it: a longer
string is the no-op of R152 as an abstract command. -/
def wellFormed : Instr → Bool
  | .resetLcd         => true
  | .clearDataBits    => true
  | .writeString s    => decide (s.length ≤ maxFrameLen)
  | .writeCharArray _ => true

end Sys2Proof
end

