-- ==== Sys2Proof/Decode.lean ====
section
/-! DEFINITION. The command frames (spec/30_encoding.md R71 to R80): a decoder total on byte strings that names why it
refuses, the encoder, and the view of both that spec/opcode_table.json's bit numbering needs. -/

namespace Sys2Proof

/-- The outcome of `Decode` (R78): a command and the bytes after its frame, or a refusal by name. -/
inductive DecodeResult where
  | ok (i : Instr) (rest : List Byte)
  | refuse (why : FrameRefusal)
deriving DecidableEq, Repr

/-- The number of an operation, which is the opcode byte's bits 1:0 and what OP holds (R26, R71). -/
def opBits : Op → BitVec 2
  | .resetLcd       => 0#2
  | .clearDataBits  => 1#2
  | .writeString    => 2#2
  | .writeCharArray => 3#2

/-- The operation with a given number (R71). -/
def opOfBits (b : BitVec 2) : Op :=
  if b = 0#2 then .resetLcd
  else if b = 1#2 then .clearDataBits
  else if b = 2#2 then .writeString
  else .writeCharArray

/-- Bits 1:0 of the opcode byte (R71). -/
def opcodeOp (b : Byte) : BitVec 2 := b.extractLsb' 0 2

/-- Bits 7:2 of the opcode byte, which must be zero (R71). -/
def opcodeZero (b : Byte) : BitVec 6 := b.extractLsb' 2 6

/-- The opcode byte of an operation (R71): six zero bits, then its number. -/
def opcodeByte (o : Op) : Byte := (0#6) ++ opBits o

/-- Format S after its opcode byte (R73, R80): the length byte L, then L codes. -/
def decodeString : List Byte → DecodeResult
  | [] => .refuse .truncated
  | l :: rest =>
    if rest.length < l.toNat then .refuse .truncated
    else .ok (.writeString (rest.take l.toNat)) (rest.drop l.toNat)

/-- Format A after its opcode byte (R75, R80): exactly five codes. -/
def decodeArray : List Byte → DecodeResult
  | c0 :: c1 :: c2 :: c3 :: c4 :: rest => .ok (.writeCharArray #v[c0, c1, c2, c3, c4]) rest
  | _ => .refuse .truncated

/-- `Decode` (R78): the opcode byte says the format (R71, R76); a reserved opcode byte is refused (R79). -/
def decode : List Byte → DecodeResult
  | [] => .refuse .empty
  | b :: rest =>
    if opcodeZero b = 0#6 then
      match opOfBits (opcodeOp b) with
      | .resetLcd       => .ok .resetLcd rest
      | .clearDataBits  => .ok .clearDataBits rest
      | .writeString    => decodeString rest
      | .writeCharArray => decodeArray rest
    else .refuse .reservedOpcode

/-- The operands of a frame after its opcode byte (R72, R73, R75). -/
def encodeOperands : Instr → List Byte
  | .resetLcd         => []
  | .clearDataBits    => []
  | .writeString s    => BitVec.ofNat 8 s.length :: s
  | .writeCharArray a => a.toList

/-- The operation of a command, `op(cmd)` of R102. -/
def opOf : Instr → Op
  | .resetLcd         => .resetLcd
  | .clearDataBits    => .clearDataBits
  | .writeString _    => .writeString
  | .writeCharArray _ => .writeCharArray

/-- The frame of a well-formed command (R71 to R75). -/
def encode (i : Instr) : List Byte := opcodeByte (opOf i) :: encodeOperands i

/-- The length of a frame, told from its first one or two bytes (R76). `none` where R79 or R80 refuses before the
length is known. -/
def frameLength : List Byte → Option Nat
  | [] => none
  | b :: rest =>
    if opcodeZero b = 0#6 then
      match opOfBits (opcodeOp b), rest with
      | .resetLcd, _       => some 1
      | .clearDataBits, _  => some 1
      | .writeString, []   => none
      | .writeString, l :: _ => some (2 + l.toNat)
      | .writeCharArray, _ => some 6
    else none

/-- The longest frame: opcode, length byte and 255 codes (R73). -/
def longestFrame : Nat := 257

/-- The first `n` bytes of a number, least significant first: how spec/opcode_table.json numbers a frame's bits. -/
def bytesOfNat : Nat → Nat → List Byte
  | 0, _ => []
  | n + 1, w => BitVec.ofNat 8 w :: bytesOfNat n (w / 256)

/-- A table word as bytes: its own `nbits` bits and zeros above them, as long as the longest frame. -/
def paddedTableBytes (nbits w : Nat) : List Byte :=
  bytesOfNat (max longestFrame ((nbits + 7) / 8)) (w % 2 ^ nbits)

/-- The instruction the decoder reads from a table word, operand bytes the table gives no bits being zero. -/
def decodeTableWord (nbits w : Nat) : Option Instr :=
  match decode (paddedTableBytes nbits w) with
  | .ok i _   => some i
  | .refuse _ => none

/-- The bytes of that one instruction and no more: the frame alone, or, where the decoder refuses, the word's own
bytes. -/
def tableFrame (nbits w : Nat) : List Byte :=
  match decode (paddedTableBytes nbits w) with
  | .ok _ rest => (paddedTableBytes nbits w).take ((paddedTableBytes nbits w).length - rest.length)
  | .refuse _  => bytesOfNat ((nbits + 7) / 8) (w % 2 ^ nbits)

end Sys2Proof
end

