-- ==== Sys2Proof/Machine/MicroOp.lean ====
section
/-! DEFINITION. The data types of the sequencer: line vector, control lines, micro-operations (spec/
40_sequencer_primitives.md R100), trace events (10_state.md R36) and bus words (30_encoding.md R82). -/

namespace Sys2Proof.Machine

/-- LINE: the twelve output latches, index 0 first (R21). -/
abbrev Lines := Vector Bool Config.nLines

/-- BUF: the operand buffer (R29). -/
abbrev Buf := Vector Byte Config.bufDepth

/-- The four lines `SET` may name (R100): LED, E, RW, RS. Data lines are written only by `CLEAR` and `LOAD`. -/
inductive CtrlLine where
  | led
  | e
  | rw
  | rs
deriving DecidableEq, Repr

/-- The operand of `LOAD` (R100): a constant byte or a buffer entry. -/
inductive Src where
  | const (c : Byte)
  | buf (i : Fin Config.bufDepth)
deriving DecidableEq, Repr

/-- A micro-operation (R100). -/
inductive MicroOp where
  /-- `SET i b` (R113). -/
  | set (i : CtrlLine) (b : Bool)
  /-- `CLEAR` (R107). -/
  | clear
  /-- `LOAD src` (R108). -/
  | load (src : Src)
  /-- `DELAY n` (R109). -/
  | delay (n : BitVec Config.tmrWidth)
deriving DecidableEq, Repr

/-- An event of TRACE (R36). -/
inductive Event where
  /-- `Set(i, b)`. -/
  | set (i : CtrlLine) (b : Bool)
  /-- `Data(v)`, v the resulting DATA. -/
  | data (v : Byte)
  /-- `Wait(n)`. -/
  | wait (n : BitVec Config.tmrWidth)
deriving DecidableEq, Repr

/-- A bus word: what the lines show the display when E falls (R38, R82). -/
structure BusWord where
  rs   : Bool
  rw   : Bool
  data : Byte
deriving DecidableEq, Repr

/-- The state of a move of the parties outside the block that one deterministic step reads from a script
(notes/assumptions/3.md). -/
inductive EnvMove where
  /-- Nothing intervenes: the block (or the host, when the block is idle) moves. -/
  | pass
  /-- A TICK is taken now, whatever else is enabled (R105, R106 "any schedule"). -/
  | tick
  /-- The reset input is raised (R218, R230, R232). -/
  | hardwareReset
deriving DecidableEq, Repr

end Sys2Proof.Machine
end

