-- ==== Sys2Proof/Machine/State.lean ====
section
/-! DEFINITION. The state of the block (spec/10_state.md R20), the ghosts a model adds (R35 to R38), the pending input
of the parties outside, and hardware reset's values (R39, R230). The block has no byte-addressed memory (R50). -/

namespace Sys2Proof.Machine

/-- The complete state. The first seven fields are the tuple of R20, the next three its ghosts, the last three the
model's own (notes/assumptions/3.md, 2.md): inputs that R218 and R105 give the parties outside the block. -/
structure State where
  /-- LINE: 12 x 1 bit, the output latches (R21). -/
  lines   : Lines
  /-- BUSY: 1 bit (R25). -/
  busy    : Bool
  /-- OP: 2 bits (R26). -/
  op      : Op
  /-- UPC: 7 bits (R27). -/
  upc     : BitVec Config.upcWidth
  /-- LEN: 8 bits (R28). -/
  len     : BitVec Config.lenWidth
  /-- BUF: 16 x 8 bits (R29). -/
  buf     : Buf
  /-- TMR: 8 bits (R30). -/
  tmr     : BitVec Config.tmrWidth
  /-- NOW (ghost): ticks since hardware reset (R35). -/
  now     : Nat
  /-- TRACE (ghost): the events so far, oldest first (R36). -/
  trace   : List Event
  /-- LATCHED (ghost): the words the display latched, oldest first (R38). -/
  latched : List BusWord
  /-- The bytes the host has yet to transfer, first byte first: frames with no padding between them (R76, R219). -/
  port    : List Byte
  /-- The moves of the environment still to come, first move first; an empty script is the eager schedule (R106). -/
  env     : List EnvMove
  /-- How many times `Config.resetLatchWord` has been drawn (R232). -/
  draws   : Nat
deriving DecidableEq, Repr

/-- Why the machine could stop with a fault. There is no constructor, because the block raises no exception and no step
of it faults (R117, R200); so no meaning can answer a fault. -/
inductive Fault where
deriving DecidableEq, Repr

/-- Why a step is refused. -/
inductive Refusal where
  /-- The instruction has no meaning in the model yet. Raised by `exec` alone; no arm answers it now. Safe. -/
  | notModelled (mnemonic : String)
  /-- The idle block is presented bytes that `Decode` refuses (R79, R80, R202). Raised by `step` alone, before any
  command is issued. Safe: nothing further is claimed of such a run (95_test_vectors.md P6). -/
  | frame (why : FrameRefusal)
deriving DecidableEq, Repr

/-- The block right after hardware reset, no host request and no environment move pending. LINE, BUSY, TMR, UPC and the
ghosts are R39's; OP, LEN and BUF are unspecified there, and hold a value of the model's choosing (DESIGN CHOICE,
unsafe, notes/assumptions/4.md), which no rule reads. -/
def State.reset : State where
  lines   := Config.params.lineReset
  busy    := false
  op      := .resetLcd
  upc     := 0#7
  len     := 0#8
  buf     := Vector.replicate Config.bufDepth 0#8
  tmr     := 0#8
  now     := 0
  trace   := []
  latched := []
  port    := []
  env     := []
  draws   := 0

end Sys2Proof.Machine
end

