-- ==== Sys2Proof/Machine/Flags.lean ====
section
/-! DEFINITION. The block has no flags or condition codes (spec/10_state.md R32). Its one status is BUSY, which the host
sees as the port's ready signal (R25), and its one comparison is the length guard (43_write_string.md R150). -/

namespace Sys2Proof.Machine

/-- The host port's ready signal, `not BUSY` (R219). -/
def ready (s : State) : Bool := !s.busy

/-- The length guard: LEN compared with MAX_STR_LEN as unsigned values (R150). -/
def transmits (len : BitVec Config.lenWidth) : Bool := decide (len.toNat ≤ Config.params.maxStrLen)

end Sys2Proof.Machine
end

