-- ==== Sys2Proof/Machine/BitEncoder.lean ====
section
/-! DEFINITION. The Bit Encoder (spec/41_bit_encoder.md R130) and the map between data bits and lines (R53, R132). -/

namespace Sys2Proof.Machine

/-- MASK[k] = 1 << k (R31). -/
def mask (k : Fin Config.dataWidth) : Byte := Config.params.masks[k]

/-- `Enc`: element `k` is `(c & MASK[k]) != 0` (R130). -/
def enc (c : Byte) : Vector Bool Config.dataWidth := Vector.ofFn fun k => (c &&& mask k) != 0#8

/-- The bit positions 0..7. -/
def bitPositions : List (Fin Config.dataWidth) := [0, 1, 2, 3, 4, 5, 6, 7]

/-- The index in LINE of data line `Dk`: `8 - k` (R21, R53). -/
def dataLine (k : Fin Config.dataWidth) : Fin Config.nLines := Config.params.lineIndex.data[k]

/-- The index in LINE of a control line (R21). -/
def ctrlIndex : CtrlLine → Fin Config.nLines
  | .led => Config.params.lineIndex.led
  | .e   => Config.params.lineIndex.e
  | .rw  => Config.params.lineIndex.rw
  | .rs  => Config.params.lineIndex.rs

/-- The level of a control line. -/
def ctrl (l : Lines) (c : CtrlLine) : Bool := l[ctrlIndex c]

/-- DATA, the view `DATA[k] = LINE[8-k]` (R7, R23). -/
def readData (l : Lines) : Byte := BitVec.ofFnLE fun k => l[dataLine k]

/-- `DATA <- v`: `LINE[8-k] <- v[k]` for k = 0..7, as one step (R8, R23). -/
def writeData (v : Byte) (l : Lines) : Lines :=
  bitPositions.foldl (fun l k => l.set (dataLine k) (v.getLsbD k.val)) l

/-- What `LOAD` does to the lines: `if Enc(c)[k] then LINE[8-k] <- 1`; a line whose bit is 0 is not written (R108). -/
def driveHigh (c : Byte) (l : Lines) : Lines :=
  bitPositions.foldl (fun l k => if (enc c)[k] then l.set (dataLine k) true else l) l

/-- The bus word the lines present, `(RS, RW, DATA)` (R38, R82). -/
def busWord (l : Lines) : BusWord := { rs := ctrl l .rs, rw := ctrl l .rw, data := readData l }

/-- A bus word as the 10-bit number of R82: RS, RW, D7 .. D0, most significant first. -/
def busWordBits (w : BusWord) : BitVec 10 := BitVec.ofBool w.rs ++ BitVec.ofBool w.rw ++ w.data

/-- The bus word with a given 10-bit number (R82). -/
def busWordOfBits (b : BitVec 10) : BusWord :=
  { rs := b.getLsbD 9, rw := b.getLsbD 8, data := b.extractLsb' 0 8 }

/-- The line vector with given levels, in the printing order of R7: LED, D7..D0, E, RW, RS. -/
def lineVector (led : Bool) (d : Byte) (e rw rs : Bool) : Lines :=
  #v[led, d.getLsbD 7, d.getLsbD 6, d.getLsbD 5, d.getLsbD 4, d.getLsbD 3, d.getLsbD 2, d.getLsbD 1, d.getLsbD 0,
    e, rw, rs]

end Sys2Proof.Machine
end

