-- ==== Sys2Proof/Machine/Operands.lean ====
section
/-! DEFINITION. Operand forms: what ISSUE latches from a command (spec/40_sequencer_primitives.md R102, 30_encoding.md
R74, R75) and what `LOAD src` reads (R108). -/

namespace Sys2Proof.Machine

/-- `BUF[j] <- s[j]` for j = from, from+1, ...; entries past the end of the codes keep their contents (R29, R74). -/
def latchCodes : List Byte → Nat → Buf → Buf
  | [], _, b => b
  | c :: cs, j, b => latchCodes cs (j + 1) (b.setIfInBounds j c)

/-- `LEN <- min(|s|, 255)` (R102). -/
def lengthOperand (s : List Byte) : BitVec Config.lenWidth := BitVec.ofNat Config.lenWidth (min s.length maxFrameLen)

/-- BUF after the issue of WRITE_STRING s: the codes are latched when `|s| <= 16`, discarded otherwise (R74, R102). -/
def stringBuf (s : List Byte) (b : Buf) : Buf :=
  if s.length ≤ Config.params.maxStrLen then latchCodes s 0 b else b

/-- BUF after the issue of WRITE_CHAR_ARRAY a (R75, R102). -/
def arrayBuf (a : Vector Byte Config.arrayLen) (b : Buf) : Buf := latchCodes a.toList 0 b

/-- The value of a `LOAD` operand, `BUF[i]` being read when the LOAD executes (R108). -/
def srcValue (b : Buf) : Src → Byte
  | .const c => c
  | .buf i   => b[i]

end Sys2Proof.Machine
end

