-- ==== Sys2Proof/Machine/Ops.lean ====
section
/-! DEFINITION. The named operations on the state: the four micro-operations (spec/40_sequencer_primitives.md R107 to
R109, R113) and the steps ISSUE, DONE, TICK (R102, R104, R105) and hardware reset (70_reset_and_hazards.md R230, R232).
The block has no trap mechanism, so there is no operation that takes an exception or returns from one (60_exceptions.md
R206, R207). -/

namespace Sys2Proof.Machine

/-- Append an event to TRACE (R36, R103). -/
def logEvent (ev : Event) (s : State) : State := { s with trace := s.trace ++ [ev] }

/-- What the display latches when a control line is set: the bus word, exactly when E is written 0 while it is 1
(R38, R113). -/
def latchedBySet (i : CtrlLine) (b : Bool) (l : Lines) : List BusWord :=
  if i = .e ∧ b = false ∧ ctrl l .e = true then [busWord l] else []

/-- `SET i b` (R113). -/
def opSet (i : CtrlLine) (b : Bool) (s : State) : State :=
  logEvent (.set i b)
    { s with lines := s.lines.set (ctrlIndex i) b, latched := s.latched ++ latchedBySet i b s.lines }

/-- `CLEAR` (R107). -/
def opClear (s : State) : State := logEvent (.data 0x00#8) { s with lines := writeData 0x00#8 s.lines }

/-- `LOAD src` (R108). -/
def opLoad (src : Src) (s : State) : State :=
  let l := driveHigh (srcValue s.buf src) s.lines
  logEvent (.data (readData l)) { s with lines := l }

/-- `DELAY n` (R109). -/
def opDelay (n : BitVec Config.tmrWidth) (s : State) : State := logEvent (.wait n) { s with tmr := n }

/-- The effect of one micro-operation and its event (R103). -/
def execMicro (m : MicroOp) (s : State) : State :=
  match m with
  | .set i b  => opSet i b s
  | .clear    => opClear s
  | .load src => opLoad src s
  | .delay n  => opDelay n s

/-- ISSUE (R102). While BUSY = 1 there is no ISSUE step: the command is held and changes nothing (R218, R219). `len` and
`buf` are what LEN and BUF become. -/
def issue (o : Op) (len : BitVec Config.lenWidth) (buf : Buf) (s : State) : Host.Outcome State Fault Refusal :=
  if ready s then .next { s with op := o, len := len, buf := buf, upc := 0#7, busy := true }
  else .next s

/-- DONE (R104). -/
def done (s : State) : State := { s with busy := false }

/-- TICK (R105). -/
def tick (s : State) : State :=
  { s with now := s.now + 1, tmr := if s.tmr = 0#8 then s.tmr else s.tmr - 1#8 }

/-- Hardware reset (R230, R232): the reset state at once. If E was 1 it falls, and the display latches a word of
unspecified value, a draw of `Config.resetLatchWord`. What the host has yet to send and what the environment has yet to
do are not the block's, and stay (notes/assumptions/5.md). -/
def hardwareReset (s : State) : State :=
  { State.reset with
    latched := if ctrl s.lines .e then [busWordOfBits (Config.resetLatchWord s.draws)] else []
    port    := s.port
    env     := s.env
    draws   := if ctrl s.lines .e then s.draws + 1 else s.draws }

end Sys2Proof.Machine
end

