-- ==== Sys2Proof/Machine/Macros.lean ====
section
/-! DEFINITION. The macros the micro-programs are built from (spec/40_sequencer_primitives.md R111, R112) and the
character protocol WRITE_STRING and WRITE_CHAR_ARRAY share (43_write_string.md R151, 44_write_char_array.md R161). -/

namespace Sys2Proof.Machine

/-- PULSE(h, l) (R111). -/
def pulse (h l : BitVec Config.tmrWidth) : List MicroOp := [.set .e true, .delay h, .set .e false, .delay l]

/-- CYCLE(src, h, l) = [CLEAR, LOAD src] ++ PULSE(h, l) (R112). -/
def cycle (src : Src) (h l : BitVec Config.tmrWidth) : List MicroOp := [.clear, .load src] ++ pulse h l

/-- One controller command write of RESET_LCD (R171). -/
def commandCycle (c : Byte) : List MicroOp := cycle (.const c) Config.params.tCmdHigh Config.params.tCmdLow

/-- The N_INIT_CMDS controller commands of RESET_LCD in the order it sends them (R54, R83). -/
def initCommands (c : Config.CmdBytes) : Vector Byte Config.nInitCmds :=
  #v[c.functionSet, c.clearDisplay, c.returnHome, c.displayOn]

/-- The same bytes as a list. -/
def initBytes (c : Config.CmdBytes) : List Byte := (initCommands c).toList

/-- One per-character cycle (R151). -/
def characterCycle (i : Fin Config.bufDepth) : List MicroOp :=
  cycle (.buf i) Config.params.tChrHigh Config.params.tChrLow

/-- The first `n` indices of the operand buffer, in order (R54). -/
def bufIndices (n : Nat) : List (Fin Config.bufDepth) := (List.finRange Config.bufDepth).take n

/-- The micro-program that transmits `BUF[0..n-1]` (R151, R161). -/
def characterProgram (n : Nat) : List MicroOp :=
  [.set .led true, .set .rs true] ++ (bufIndices n).flatMap characterCycle ++ [.set .rs false, .set .led false]

end Sys2Proof.Machine
end

