-- ==== Sys2Proof/Machine/ClearDataBits.lean ====
section
/-! DEFINITION. CLEAR_DATA_BITS (spec/42_clear_data_bits.md): its micro-program and its issue. -/

namespace Sys2Proof.Machine

/-- The one micro-operation of CLEAR_DATA_BITS (R140). -/
def progClearDataBits : List MicroOp := [.clear]

/-- CLEAR_DATA_BITS is issued (R102, R140); `sequencerStep` then runs `progClearDataBits`. -/
def execClearDataBits (s : State) : Host.Outcome State Fault Refusal := issue .clearDataBits s.len s.buf s

end Sys2Proof.Machine
end

