-- ==== Sys2Proof/Machine/ResetLcd.lean ====
section
/-! DEFINITION. RESET_LCD (spec/45_reset_lcd.md): its micro-program and its issue. -/

namespace Sys2Proof.Machine

/-- The 29 micro-operations of RESET_LCD for given controller command bytes (R171, R178). -/
def progResetLcd (c : Config.CmdBytes) : List MicroOp :=
  [.delay Config.params.tSettle, .set .rs false, .set .rw false, .set .led true]
    ++ (initBytes c).flatMap commandCycle ++ [.set .led false]

/-- RESET_LCD is issued (R102, R170); `sequencerStep` then runs `progResetLcd` one micro-operation a step. It has no
operand: LEN and BUF keep their contents. -/
def execResetLcd (s : State) : Host.Outcome State Fault Refusal := issue .resetLcd s.len s.buf s

end Sys2Proof.Machine
end

