-- ==== Sys2Proof/Machine/WriteCharArray.lean ====
section
/-! DEFINITION. WRITE_CHAR_ARRAY (spec/44_write_char_array.md): its micro-program and its issue. -/

namespace Sys2Proof.Machine

/-- The 34 micro-operations of WRITE_CHAR_ARRAY: five cycles, no guard (R161). -/
def progWriteCharArray : List MicroOp := characterProgram Config.arrayLen

/-- WRITE_CHAR_ARRAY a is issued (R102, R160): BUF[0..4] takes the codes, LEN keeps its contents. -/
def execWriteCharArray (a : Vector Byte Config.arrayLen) (s : State) : Host.Outcome State Fault Refusal :=
  issue .writeCharArray s.len (arrayBuf a s.buf) s

end Sys2Proof.Machine
end

