-- ==== Sys2Proof/Machine/WriteString.lean ====
section
/-! DEFINITION. WRITE_STRING (spec/43_write_string.md): its micro-program, chosen by the length guard, and its issue. -/

namespace Sys2Proof.Machine

/-- The micro-program of WRITE_STRING: LEN cycles when the guard passes (R151), none at all otherwise (R152). -/
def progWriteString (len : BitVec Config.lenWidth) : List MicroOp :=
  if transmits len then characterProgram len.toNat else []

/-- WRITE_STRING s is issued (R102, R150): LEN saturates at 255, and BUF takes the codes when there are at most 16. A
longer string is accepted too, and its empty program completes at once (R152). -/
def execWriteString (s : List Byte) (st : State) : Host.Outcome State Fault Refusal :=
  issue .writeString (lengthOperand s) (stringBuf s st.buf) st

end Sys2Proof.Machine
end

