-- ==== Sys2Proof/Machine/Dispatch.lean ====
section
/-! DEFINITION. The meaning of each command when the host presents it: one arm per constructor of `Instr`. -/

namespace Sys2Proof.Machine

def exec (i : Instr) (s : State) : Host.Outcome State Fault Refusal :=
  match i with
  | .resetLcd => Sys2Proof.Machine.execResetLcd s
  | .clearDataBits => Sys2Proof.Machine.execClearDataBits s
  | .writeString cs => Sys2Proof.Machine.execWriteString cs s
  | .writeCharArray a => Sys2Proof.Machine.execWriteCharArray a s

end Sys2Proof.Machine
end

