-- ==== Sys2Proof/Machine/Sequencer.lean ====
section
/-! DEFINITION. `Prog(OP, LEN)` and the steps of a busy block: MICRO, DONE, or a TICK while it waits (spec/
40_sequencer_primitives.md R101, R103 to R106). -/

namespace Sys2Proof.Machine

/-- `Prog(OP, LEN)` (R101). -/
def prog (o : Op) (len : BitVec Config.lenWidth) : List MicroOp :=
  match o with
  | .resetLcd       => progResetLcd Config.params.cmds
  | .clearDataBits  => progClearDataBits
  | .writeString    => progWriteString len
  | .writeCharArray => progWriteCharArray

/-- The micro-program of the command in progress. -/
def currentProg (s : State) : List MicroOp := prog s.op s.len

/-- MICRO with a given micro-operation: its effect, its event, and UPC advanced (R103). -/
def micro (m : MicroOp) (s : State) : State :=
  let t := execMicro m s
  { t with upc := t.upc + 1#7 }

/-- The step of a busy block under the eager schedule (R106): a TICK while TMR > 0, else MICRO, else DONE. With UPC
past the end, which no reachable state has (R27), only TICK is enabled. -/
def sequencerStep (s : State) : State :=
  if s.tmr = 0#8 then
    match (currentProg s)[s.upc.toNat]? with
    | some m => micro m s
    | none   => if s.upc.toNat = (currentProg s).length then done s else tick s
  else tick s

end Sys2Proof.Machine
end

