-- ==== Sys2Proof/Machine/Agents.lean ====
section
/-! DEFINITION. Which party moves in a step (spec/00_scope.md R10, 40_sequencer_primitives.md R106, 60_exceptions.md R205,
R218, R219): the environment's script first, then the sequencer while the block is busy, else the host; and when a run is
over (R119). -/

namespace Sys2Proof.Machine

/-- The idle block. With no request pending, idle time passes (R105, R231). A pending request is decoded, and a command
is transferred in this step and issued (R102, R219). Bytes that `Decode` refuses end the run (R79, R202). -/
def hostStep (s : State) : Host.Outcome State Fault Refusal :=
  match s.port with
  | [] => .next (tick s)
  | b :: bs =>
    match decode (b :: bs) with
    | .ok i rest  => exec i { s with port := rest }
    | .refuse why => .refused (.frame why)

/-- The block's or the host's move: a busy block runs on and holds the host's request (R219), an idle one is ready. -/
def blockStep (s : State) : Host.Outcome State Fault Refusal :=
  if s.busy then .next (sequencerStep s) else hostStep s

/-- One step: the first move of the environment's script, if there is one, else the eager schedule (R106, R205). -/
def agentStep (s : State) : Host.Outcome State Fault Refusal :=
  match s.env with
  | [] => blockStep s
  | .pass :: rest          => blockStep { s with env := rest }
  | .tick :: rest          => .next (tick { s with env := rest })
  | .hardwareReset :: rest => .next (hardwareReset { s with env := rest })

/-- The end of a run of a host program (R119, decision D25): the host has no further command to issue and BUSY = 0. It
says nothing of the display. A state with BUSY = 1 is never final. -/
def runOver (s : State) : Bool := s.port.isEmpty && ready s

/-- The idle block with exactly one frame pending and no environment move before it (notes/assumptions/6.md). -/
def presentFrame (bytes : List Byte) (s : State) : State := { s with port := bytes, env := [], busy := false }

end Sys2Proof.Machine
end

