-- ==== Sys2Proof/Machine/Step.lean ====
section
/-! DEFINITION. One step of the machine, and a state whose next step runs a given table word. -/

namespace Sys2Proof.Machine

/-- One step (spec/40_sequencer_primitives.md, section 2). -/
def step (s : State) : Host.Outcome State Fault Refusal := agentStep s

/-- `s` with the frame of a table word where the next step takes its command from: the host port of an idle block. -/
def State.withFetchWord (s : State) (nbits w : Nat) : State := presentFrame (tableFrame nbits w) s

end Sys2Proof.Machine
end

