-- ==== Sys2Proof/Machine/Asm.lean ====
section
/-! DEFINITION. The textual assembly of spec/30_encoding.md R87 and R88: one command a line, one frame a command. The
spec calls this syntax its own (D26); the machine never reads it. Codes of quoted characters are ASCII (G5). Where R87 and
R88 are silent on a lexical point, the reading here is a DESIGN CHOICE that notes/assumptions/12.md names. -/

namespace Sys2Proof.Machine

/-- What one line of assembly stands for. -/
inductive AsmLine where
  /-- Nothing but white space and a comment: no frame (DESIGN CHOICE, notes/assumptions/12.md). -/
  | blank
  | command (i : Instr)
  | refuse
deriving DecidableEq, Repr

/-- A double quotation mark. -/
def asmQuote : Char := Char.ofNat 34
/-- A single quotation mark. -/
def asmTick : Char := Char.ofNat 39
/-- White space inside a line: blank, tab, carriage return (DESIGN CHOICE, notes/assumptions/12.md). -/
def asmIsBlank (c : Char) : Bool := c == ' ' || c == Char.ofNat 9 || c == Char.ofNat 13

/-- Drop leading white space, of which there may be none. -/
def asmSkip : List Char → List Char
  | [] => []
  | c :: cs => if asmIsBlank c then asmSkip cs else c :: cs

/-- Nothing more stands on the line, or a comment that `;` starts (R87), with or without white space before it (DESIGN
CHOICE, notes/assumptions/12.md). -/
def asmAtEnd (cs : List Char) : Bool :=
  match asmSkip cs with
  | [] => true
  | c :: _ => c == ';'

/-- Drop a given word from the front. -/
def asmWord : List Char → List Char → Option (List Char)
  | [], cs => some cs
  | _ :: _, [] => none
  | w :: ws, c :: cs => if w = c then asmWord ws cs else none

/-- The value of a hexadecimal digit. -/
def asmHexDigit (c : Char) : Option Nat :=
  if 48 ≤ c.toNat ∧ c.toNat ≤ 57 then some (c.toNat - 48)
  else if 65 ≤ c.toNat ∧ c.toNat ≤ 70 then some (c.toNat - 55)
  else if 97 ≤ c.toNat ∧ c.toNat ≤ 102 then some (c.toNat - 87)
  else none

/-- A byte value `0x..` (R87), of one or two digits of either case (DESIGN CHOICE, notes/assumptions/12.md). -/
def asmByte : List Char → Option (Byte × List Char)
  | z :: x :: a :: rest =>
    if z = '0' ∧ x = 'x' then
      match asmHexDigit a, rest with
      | none, _ => none
      | some h, [] => some (BitVec.ofNat 8 h, [])
      | some h, b :: rest' =>
        match asmHexDigit b with
        | some l => some (BitVec.ofNat 8 (16 * h + l), rest')
        | none   => some (BitVec.ofNat 8 h, b :: rest')
    else none
  | _ => none

/-- The ASCII code of a character. -/
def asmCode (c : Char) : Option Byte := if c.toNat < 128 then some (BitVec.ofNat 8 c.toNat) else none

/-- A byte value or a single-quoted character (R87). The quoted character is any one ASCII character, a quotation mark or
`;` too (DESIGN CHOICE, notes/assumptions/12.md). -/
def asmItem (cs : List Char) : Option (Byte × List Char) :=
  match cs with
  | q :: c :: q' :: rest =>
    if q = asmTick then
      if q' = asmTick then (asmCode c).map fun v => (v, rest) else none
    else asmByte cs
  | _ => none

/-- The rest of a double-quoted literal, up to its closing mark (R87). Every other ASCII character in it stands for itself,
`;` too (DESIGN CHOICE, notes/assumptions/12.md). -/
def asmLiteral : List Char → Option (List Byte × List Char)
  | [] => none
  | c :: cs =>
    if c = asmQuote then some ([], cs)
    else
      match asmCode c, asmLiteral cs with
      | some v, some (vs, rest) => some (v :: vs, rest)
      | _, _ => none

/-- One or more operands separated by commas, each read by `item` (R87); `fuel` bounds their number. DESIGN CHOICE
(notes/assumptions/12.md): white space may stand before an operand, before a comma and after one, and none is needed; no
comma may follow the last operand. -/
def asmItems (item : List Char → Option (Byte × List Char)) : Nat → List Char → Option (List Byte × List Char)
  | 0, _ => none
  | fuel + 1, cs =>
    match item (asmSkip cs) with
    | none => none
    | some (v, rest) =>
      match asmSkip rest with
      | ',' :: more => (asmItems item fuel more).map fun p => (v :: p.1, p.2)
      | other       => some ([v], other)

/-- `<string>`: a double-quoted literal or a bracketed list of byte values (R87). DESIGN CHOICE (notes/assumptions/12.md):
white space may stand after the opening bracket and before the closing one, and none is needed. -/
def asmString (cs : List Char) : Option (List Byte × List Char) :=
  match asmSkip cs with
  | [] => none
  | c :: rest =>
    if c = asmQuote then asmLiteral rest
    else if c = '[' then
      match asmSkip rest with
      | ']' :: more => some ([], more)
      | other =>
        match asmItems asmByte other.length other with
        | some (vs, ']' :: more) => some (vs, more)
        | _ => none
    else none

/-- Exactly five operands (R88). -/
def asmFive : List Byte → Option Instr
  | [c0, c1, c2, c3, c4] => some (.writeCharArray #v[c0, c1, c2, c3, c4])
  | _ => none

/-- The operands of WRITE_CHAR_ARRAY (R87, R88). -/
def asmArrayLine (cs : List Char) : AsmLine :=
  match asmItems asmItem cs.length cs with
  | some (vs, rest) =>
    match asmFive vs with
    | some i => if asmAtEnd rest then .command i else .refuse
    | none   => .refuse
  | none => .refuse

/-- The operand of WRITE_STRING; a string with no frame is refused (R88). -/
def asmStringLine (cs : List Char) : AsmLine :=
  match asmString cs with
  | some (vs, rest) => if asmAtEnd rest && wellFormed (.writeString vs) then .command (.writeString vs) else .refuse
  | none => .refuse

/-- One line of assembly (R87). DESIGN CHOICE (notes/assumptions/12.md): white space may stand before a mnemonic and
between it and its operand, and none is needed, for WRITE_STRING and WRITE_CHAR_ARRAY alike; a line of nothing but white space and a comment is accepted and gives no
frame. The spec says neither. -/
def asmLine (cs : List Char) : AsmLine :=
  if asmAtEnd cs then .blank
  else
    let cs := asmSkip cs
    match asmWord "RESET_LCD".toList cs with
    | some rest => if asmAtEnd rest then .command .resetLcd else .refuse
    | none =>
    match asmWord "CLEAR_DATA_BITS".toList cs with
    | some rest => if asmAtEnd rest then .command .clearDataBits else .refuse
    | none =>
    match asmWord "WRITE_STRING".toList cs with
    | some rest => asmStringLine rest
    | none =>
    match asmWord "WRITE_CHAR_ARRAY".toList cs with
    | some rest => asmArrayLine rest
    | none => .refuse

/-- The frames of a program, line after line with no padding between them (R76, R88); `none` when a line is refused. -/
def assemble : List (List Char) → Option (List Byte)
  | [] => some []
  | l :: ls =>
    match asmLine l, assemble ls with
    | .blank, some bs => some bs
    | .command i, some bs => some (encode i ++ bs)
    | _, _ => none

end Sys2Proof.Machine
end

