-- ==== Sys2Proof/Machine/BigStep.lean ====
section
/-! DEFINITION. The big-step function `Run : Command x LINE -> LINE' x events x bus words x ticks` of spec/
40_sequencer_primitives.md R114, in the closed forms of R141, R153, R162 and R172, beside the eager run of a list of
micro-operations. The step relation never calls it; statements compare the two. -/

namespace Sys2Proof.Machine

/-- What one whole command does: the lines it leaves, what it appends to TRACE and LATCHED, and its ticks (R114). -/
structure RunResult where
  lines  : Lines
  events : List Event
  words  : List BusWord
  ticks  : Nat
deriving DecidableEq, Repr

/-- The six events of a CYCLE that sends `c` (R112). -/
def cycleEvents (h l : BitVec Config.tmrWidth) (c : Byte) : List Event :=
  [.data 0x00#8, .data c, .set .e true, .wait h, .set .e false, .wait l]

/-- The events of one character write (R153). -/
def characterEvents (c : Byte) : List Event := cycleEvents Config.params.tChrHigh Config.params.tChrLow c

/-- The events of one controller command write (R172). -/
def commandEvents (c : Byte) : List Event := cycleEvents Config.params.tCmdHigh Config.params.tCmdLow c

/-- RESET_LCD with given controller command bytes (R172, R178). -/
def runResetLcd (c : Config.CmdBytes) : RunResult where
  lines  := lineVector false c.displayOn false false false
  events := [.wait Config.params.tSettle, .set .rs false, .set .rw false, .set .led true]
              ++ (initBytes c).flatMap commandEvents ++ [.set .led false]
  words  := (initBytes c).map fun b => { rs := false, rw := false, data := b }
  ticks  := 13

/-- CLEAR_DATA_BITS (R141). -/
def runClearDataBits (ls : Lines) : RunResult where
  lines  := lineVector (ctrl ls .led) 0x00#8 (ctrl ls .e) (ctrl ls .rw) (ctrl ls .rs)
  events := [.data 0x00#8]
  words  := []
  ticks  := 0

/-- The character protocol on the codes `s` (R153 with `L <= 16`, R162): DATA keeps its value when `s` is empty, RW
always does. -/
def runCharacters (s : List Byte) (ls : Lines) : RunResult where
  lines  := lineVector false ((s.getLast?).getD (readData ls)) false (ctrl ls .rw) false
  events := [.set .led true, .set .rs true] ++ s.flatMap characterEvents ++ [.set .rs false, .set .led false]
  words  := s.map fun c => { rs := true, rw := ctrl ls .rw, data := c }
  ticks  := 30 * s.length

/-- The no-op of a string that is too long (R152, R153). -/
def runNothing (ls : Lines) : RunResult where
  lines  := ls
  events := []
  words  := []
  ticks  := 0

/-- `Run` (R114). -/
def run (i : Instr) (ls : Lines) : RunResult :=
  match i with
  | .resetLcd         => runResetLcd Config.params.cmds
  | .clearDataBits    => runClearDataBits ls
  | .writeString s    => if s.length ≤ Config.params.maxStrLen then runCharacters s ls else runNothing ls
  | .writeCharArray a => runCharacters a.toList ls

/-- A duration in milliseconds (R9, R251). -/
def millis (ticks : Nat) : Nat := ticks * Config.params.tickMs

/-- How many steps the sequencer takes from ISSUE to DONE under the eager schedule: one for each micro-operation, one
for each tick, and DONE (R106, R120). -/
def eagerSteps (i : Instr) (ls : Lines) : Nat := (run i ls).events.length + (run i ls).ticks + 1

/-- One micro-operation followed by as many ticks as it asks for (R106, eager schedule). -/
def runMicro (s : State) (m : MicroOp) : State :=
  let t := execMicro m s
  { t with now := t.now + t.tmr.toNat, tmr := 0#8 }

/-- A list of micro-operations run one after another under the eager schedule. -/
def runMicros (ms : List MicroOp) (s : State) : State := ms.foldl runMicro s

/-- The ticks a list of events lasts (R250). -/
def eventTicks : List Event → Nat
  | [] => 0
  | .wait n :: es => n.toNat + eventTicks es
  | _ :: es => eventTicks es

/-- The instants, in ticks from `t`, at which a list of events writes `b` to E (R252). -/
def enableTimes (b : Bool) : Nat → List Event → List Nat
  | _, [] => []
  | t, .wait n :: es => enableTimes b (t + n.toNat) es
  | t, .set .e b' :: es => if b' = b then t :: enableTimes b t es else enableTimes b t es
  | t, .set .led _ :: es => enableTimes b t es
  | t, .set .rw _ :: es => enableTimes b t es
  | t, .set .rs _ :: es => enableTimes b t es
  | t, .data _ :: es => enableTimes b t es

end Sys2Proof.Machine
end

