-- ==== Sys2Proof/Safety.lean ====
section
/-! DEFINITION. What counts as a good state and as indistinguishable states, in the terms statements use: the invariants
of spec/10_state.md R34 in inductive form, and what no rule reads (R29, R39). -/

namespace Sys2Proof.Machine

/-- The level a control line has after a list of micro-operations, from level `b` before it. -/
def levelAfter (c : CtrlLine) (b : Bool) (ms : List MicroOp) : Bool :=
  ms.foldl (fun v m => match m with
    | .set c' b' => if c' = c then b' else v
    | .clear     => v
    | .load _    => v
    | .delay _   => v) b

/-- Where DATA comes from after a list of micro-operations in which every LOAD follows a CLEAR: `none` before the first
data write (R65). -/
def dataSource (ms : List MicroOp) : Option Src :=
  ms.foldl (fun v m => match m with
    | .set _ _  => v
    | .clear    => some (.const 0x00#8)
    | .load src => some src
    | .delay _  => v) none

/-- The micro-operations of the command in progress that have executed. -/
def executed (s : State) : List MicroOp := (currentProg s).take s.upc.toNat

/-- The micro-operation that executed last, if any. -/
def lastExecuted (s : State) : Option MicroOp := (executed s).getLast?

/-- The micro-operation that executes next, if any (R103). -/
def nextMicro (s : State) : Option MicroOp := (currentProg s)[s.upc.toNat]?

/-- The invariant of the reachable states, strong enough to be kept by every step. R34's items follow from it. -/
structure Inv (s : State) : Prop where
  /-- R34 item 1. -/
  rwLow   : ctrl s.lines .rw = false
  /-- R34 item 2. -/
  idle    : s.busy = false →
    ctrl s.lines .e = false ∧ ctrl s.lines .led = false ∧ ctrl s.lines .rs = false ∧ s.tmr = 0#8
  /-- R27: UPC ranges over 0..|Prog|. -/
  upc     : s.busy = true → s.upc.toNat ≤ (currentProg s).length
  /-- Each control line has the level the executed micro-operations give it, all being low at issue. -/
  levels  : s.busy = true → ∀ c, ctrl s.lines c = levelAfter c false (executed s)
  /-- R30: the timer runs only after a DELAY, and never above its operand. -/
  waiting : s.busy = true → s.tmr ≠ 0#8 → ∃ n, lastExecuted s = some (.delay n) ∧ s.tmr.toNat ≤ n.toNat
  /-- R65, R112: DATA is 0x00 after a CLEAR and the loaded code after a LOAD. -/
  data    : s.busy = true → ∀ src, dataSource (executed s) = some src → readData s.lines = srcValue s.buf src

/-- `n` steps of the machine (`Host.Core.run`). -/
def runSteps (n : Nat) (s : State) : Host.Outcome State Fault Refusal := Host.Core.run Sys2Proof.core n s

/-- The next move is the block's or the host's, not the environment's (R106). -/
def BlockMoves (s : State) : Prop := s.env = [] ∨ s.env.head? = some .pass

/-- The next move is not a hardware reset. -/
def NoResetNow (s : State) : Prop := s.env.head? ≠ some .hardwareReset

/-- No hardware reset is to come in the environment's script. -/
def NoReset (s : State) : Prop := EnvMove.hardwareReset ∉ s.env

/-- The block is idle and the next move is not the environment's: what a command needs to be issued and run under the
eager schedule (R102, R106). -/
structure ReadyEager (s : State) : Prop where
  busy : s.busy = false
  tmr  : s.tmr = 0#8
  env  : s.env = []
  e    : ctrl s.lines .e = false

/-- A bus word the block may send by itself: RW is 0, and a controller command is one of the four of RESET_LCD (R82,
R84). -/
def ProtocolWord (w : BusWord) : Prop := w.rw = false ∧ (w.rs = false → w.data ∈ initBytes Config.params.cmds)

/-- The levels a list of micro-operations writes to a control line, in order (R24). -/
def levelsWritten (c : CtrlLine) (ms : List MicroOp) : List Bool :=
  ms.filterMap fun m => match m with
    | .set c' b => if c' = c then some b else none
    | .clear    => none
    | .load _   => none
    | .delay _  => none

/-- The micro-operations of a list that write the data lines, in order (R24). -/
def dataWrites (ms : List MicroOp) : List MicroOp :=
  ms.filter fun m => match m with
    | .set _ _ => false
    | .clear   => true
    | .load _  => true
    | .delay _ => false

/-- The operands of the DELAYs of a list, in order (R120). -/
def delaysOf (ms : List MicroOp) : List (BitVec Config.tmrWidth) :=
  ms.filterMap fun m => match m with
    | .set _ _ => none
    | .clear   => none
    | .load _  => none
    | .delay n => some n

/-- Two states that differ at most in what no rule reads: OP, LEN and BUF while idle, LEN when the command in progress
does not use it, and buffer entries its micro-program does not load (R28, R29, R39). -/
structure SameObserved (s t : State) : Prop where
  lines   : s.lines = t.lines
  busy    : s.busy = t.busy
  upc     : s.upc = t.upc
  tmr     : s.tmr = t.tmr
  now     : s.now = t.now
  trace   : s.trace = t.trace
  latched : s.latched = t.latched
  port    : s.port = t.port
  env     : s.env = t.env
  draws   : s.draws = t.draws
  prog    : s.busy = true → s.op = t.op ∧ currentProg s = currentProg t
  buf     : s.busy = true → ∀ i, .load (.buf i) ∈ currentProg s → s.buf[i] = t.buf[i]

/-- The state a whole command leaves, `Run`'s values put beside the registers ISSUE writes (R102, R104, R114). -/
def afterRun (i : Instr) (t : State) (ls : Lines) : State :=
  { t with
    lines   := (run i ls).lines
    busy    := false
    upc     := BitVec.ofNat Config.upcWidth (run i ls).events.length
    tmr     := 0#8
    now     := t.now + (run i ls).ticks
    trace   := t.trace ++ (run i ls).events
    latched := t.latched ++ (run i ls).words }

end Sys2Proof.Machine
end

