-- ==== Sys2Proof/Certificates/Slice0/Obligations.lean ====
section
/-! DEFINITION. The statements for the provers. Each docstring names the rule of spec/ it formalises. -/

open Sys2Proof Sys2Proof.Machine

/-! ### Frames -/

/-- Decoding an encoded command gives it back, whatever follows it (95_test_vectors.md V-DEC; R71 to R78). -/
def Obligations.DecodeInvertsEncode : Prop :=
  ∀ (i : Instr) (r : List Byte), wellFormed i = true → decode (encode i ++ r) = .ok i r

/-- Every frame the decoder accepts is the encoding of its command: each frame has one meaning (R71 to R78). -/
def Obligations.AcceptedFramesAreEncodings : Prop :=
  ∀ (bs : List Byte) (i : Instr) (r : List Byte), decode bs = .ok i r → wellFormed i = true ∧ bs = encode i ++ r

/-- R76: the length of a frame is told by its first one or two bytes, and decoding consumes exactly that many. -/
def Obligations.FrameLengthFromFirstBytes : Prop :=
  (∀ (b : Byte) (bs : List Byte),
    (b.toNat ≤ 1 → frameLength (b :: bs) = some 1) ∧
    (b.toNat = 3 → frameLength (b :: bs) = some 6) ∧
    (b.toNat = 2 → ∀ l ls, bs = l :: ls → frameLength (b :: bs) = some (2 + l.toNat))) ∧
  ∀ (bs : List Byte) (i : Instr) (r : List Byte), decode bs = .ok i r →
    ∃ n, frameLength bs = some n ∧ n ≤ bs.length ∧ r = bs.drop n

/-- R79: an opcode byte is refused as reserved exactly when it is 0x04 to 0xFF, whatever follows it, and the step of an
idle block it is presented to is that refusal (that it ends the run is the model's choice,
notes/assumptions/11.md, and that the host presents it at once is too, notes/assumptions/3.md). -/
def Obligations.ReservedOpcodesRefused : Prop :=
  ∀ (b : Byte) (bs : List Byte),
    (decode (b :: bs) = .refuse .reservedOpcode ↔ 4 ≤ b.toNat) ∧
    ∀ s : State, 4 ≤ b.toNat → s.busy = false → BlockMoves s → s.port = b :: bs →
      step s = .refused (.frame .reservedOpcode)

/-- R80: a frame is refused as truncated exactly when its opcode is 0x02 and the length byte or a code is missing, or its
opcode is 0x03 and one of its five codes is. -/
def Obligations.TruncatedFramesRefused : Prop :=
  ∀ (b : Byte) (bs : List Byte), decode (b :: bs) = .refuse .truncated ↔
    (b.toNat = 2 ∧ (bs = [] ∨ ∃ l ls, bs = l :: ls ∧ ls.length < l.toNat)) ∨ (b.toNat = 3 ∧ bs.length < 5)

/-- Four words of R89 written out: they decode to the commands they stand for (a sanity check). -/
def Obligations.WorkedFramesDecode : Prop :=
  decode [0x00#8] = .ok .resetLcd [] ∧
  decode [0x01#8, 0xFF#8] = .ok .clearDataBits [0xFF#8] ∧
  decode [0x02#8, 0x02#8, 0x48#8, 0x69#8] = .ok (.writeString [0x48#8, 0x69#8]) [] ∧
  decode [0x03#8, 0x32#8, 0x2E#8, 0x34#8, 0x39#8, 0x56#8] =
    .ok (.writeCharArray #v[0x32#8, 0x2E#8, 0x34#8, 0x39#8, 0x56#8]) []

/-- R88: the assembler accepts no command without a frame, so no string of more than 255 codes. Its lexical details are
the model's choice (notes/assumptions/12.md). -/
def Obligations.AssembledCommandsHaveFrames : Prop :=
  ∀ (cs : List Char) (i : Instr), asmLine cs = .command i → wellFormed i = true

/-! ### The step relation

Here and below, which party moves next is read from the script `env`, and what the host asks for from `port`: the model's
form of "any schedule" and of the host (DESIGN CHOICE, notes/assumptions/3.md). -/

/-- A step runs the decoded instruction: an idle block with a frame pending consumes exactly that frame (R102, R219). That
the host presents its next frame as soon as the block is idle is the model's choice (notes/assumptions/3.md). -/
def Obligations.StepRunsDecodedInstruction : Prop :=
  ∀ (s : State) (i : Instr) (rest : List Byte),
    s.busy = false → BlockMoves s → decode s.port = .ok i rest →
      step s = exec i { s with port := rest, env := s.env.tail }

/-- R102 with R74 and R75: what ISSUE latches. LEN and BUF as each command says, a string's length saturating at 255 and
its codes latched only up to 16; nothing else changes, and no line is written. That exec of a command at a
busy block, where the spec holds the host (R219), answers the state unchanged is the model's reading
(notes/assumptions/13.md). -/
def Obligations.IssueLatchesOperands : Prop :=
  (∀ s : State, s.busy = false →
    exec .resetLcd s = .next { s with op := .resetLcd, upc := 0#7, busy := true } ∧
    exec .clearDataBits s = .next { s with op := .clearDataBits, upc := 0#7, busy := true } ∧
    (∀ cs : List Byte, ∃ b : Buf,
      exec (.writeString cs) s =
        .next { s with op := .writeString, upc := 0#7, busy := true, len := BitVec.ofNat 8 (min cs.length 255), buf := b } ∧
      ∀ j : Fin 16, b[j] = if cs.length ≤ 16 then (cs[j.val]?).getD s.buf[j] else s.buf[j]) ∧
    (∀ a : Vector Byte 5, ∃ b : Buf,
      exec (.writeCharArray a) s = .next { s with op := .writeCharArray, upc := 0#7, busy := true, buf := b } ∧
      ∀ j : Fin 16, b[j] = if h : j.val < 5 then a[j.val] else s.buf[j])) ∧
  ∀ (s : State) (i : Instr), s.busy = true → exec i s = .next s

/-- The frame of the four commands at issue: no line, no timer, no ghost and no pending input changes, LEN only with
WRITE_STRING, BUF only with the two WRITE commands and only at the entries they carry (R22, R29, R102). -/
def Obligations.IssueFrame : Prop :=
  ∀ (i : Instr) (s t : State), exec i s = .next t →
    t.lines = s.lines ∧ t.tmr = s.tmr ∧ t.now = s.now ∧ t.trace = s.trace ∧ t.latched = s.latched ∧
    t.port = s.port ∧ t.env = s.env ∧ t.draws = s.draws ∧
    (i = .resetLcd ∨ i = .clearDataBits → t.len = s.len ∧ t.buf = s.buf) ∧
    (∀ a, i = .writeCharArray a → t.len = s.len ∧ ∀ j : Fin 16, 5 ≤ j.val → t.buf[j] = s.buf[j]) ∧
    (∀ cs, i = .writeString cs → ∀ j : Fin 16, cs.length ≤ j.val ∨ 16 < cs.length → t.buf[j] = s.buf[j])

/-- R103: MICRO executes the micro-operation UPC names, appends one event and advances UPC by one. -/
def Obligations.MicroStepExecutesAndAdvances : Prop :=
  ∀ (s : State) (m : MicroOp), s.busy = true → s.tmr = 0#8 → BlockMoves s → nextMicro s = some m →
    step s = .next { execMicro m { s with env := s.env.tail } with upc := s.upc + 1#7 } ∧
    (∃ ev, (execMicro m s).trace = s.trace ++ [ev]) ∧
    (execMicro m s).busy = true ∧ (execMicro m s).upc = s.upc

/-- R104: DONE clears BUSY and nothing else, when UPC is past the last micro-operation and the last DELAY has elapsed;
but for hardware reset, no other step clears it. -/
def Obligations.DoneOnlyClearsBusy : Prop :=
  (∀ s : State, s.busy = true → s.tmr = 0#8 → s.upc.toNat = (currentProg s).length → BlockMoves s →
    step s = .next { s with busy := false, env := s.env.tail }) ∧
  ∀ s t : State, s.busy = true → NoResetNow s → step s = .next t → t.busy = false →
    s.tmr = 0#8 ∧ s.upc.toNat = (currentProg s).length ∧ BlockMoves s

/-- R105: TICK is enabled in every state, busy or idle; it advances NOW and counts TMR down to 0. -/
def Obligations.TickAlwaysEnabled : Prop :=
  ∀ (s : State) (rest : List EnvMove), s.env = .tick :: rest →
    step s = .next { s with env := rest, now := s.now + 1, tmr := BitVec.ofNat 8 (s.tmr.toNat - 1) }

/-- R106, second row: while the block waits, a TICK is the only step, so no command is accepted and no line changes. -/
def Obligations.WaitingAllowsOnlyTicks : Prop :=
  ∀ s t : State, s.busy = true → s.tmr ≠ 0#8 → NoResetNow s → step s = .next t →
    t = { s with env := s.env.tail, now := s.now + 1, tmr := s.tmr - 1#8 }

/-- R117, R200: a step yields a next state unless the idle block is presented a refused frame; no step faults. That the
step is then a refusal is the model's choice (notes/assumptions/11.md), and that a busy block whose UPC is past the end
ticks on is its reading of a state R106 has no row for (notes/assumptions/13.md). -/
def Obligations.OnlyRefusedFramesStop : Prop :=
  ∀ s : State, (∃ t, step s = .next t) ∨
    (s.busy = false ∧ BlockMoves s ∧ ∃ why, why ≠ .empty ∧ decode s.port = .refuse why ∧ step s = .refused (.frame why))

/-- R219: while BUSY = 1 the host's request stays pending and unchanged, and the operands latched at issue too. That
it stays pending through a hardware reset also is the model's reading (notes/assumptions/5.md). -/
def Obligations.BusyHoldsTheHost : Prop :=
  ∀ s t : State, s.busy = true → step s = .next t →
    t.port = s.port ∧ (NoResetNow s → t.op = s.op ∧ t.len = s.len ∧ t.buf = s.buf)

/-- R22: only a micro-operation writes lines. Ticks, issues and DONE leave them, for any length of idle time. -/
def Obligations.OnlyMicroOperationsWriteLines : Prop :=
  ∀ s t : State, step s = .next t → NoResetNow s → t.lines ≠ s.lines →
    s.busy = true ∧ s.tmr = 0#8 ∧ BlockMoves s ∧ ∃ m, nextMicro s = some m ∧ ∀ n, m ≠ .delay n

/-- R231, R105: an idle block with no request does nothing but let time pass. -/
def Obligations.IdleOnlyAdvancesNow : Prop :=
  ∀ (s : State) (k : Nat), s.busy = false → s.tmr = 0#8 → s.port = [] → s.env = [] →
    runSteps k s = .next { s with now := s.now + k }

/-- R119: a busy state is never final; and where the host has nothing more to issue and BUSY = 0, every step but a hardware
reset only lets time pass, and the run stays over. -/
def Obligations.EndedRunStaysEnded : Prop :=
  (∀ s : State, runOver s = true ↔ s.port = [] ∧ s.busy = false) ∧
  ∀ s t : State, runOver s = true → NoResetNow s → step s = .next t →
    runOver t = true ∧
    t = { s with env := s.env.tail, now := s.now + 1, tmr := BitVec.ofNat 8 (s.tmr.toNat - 1) }

/-- R230, R232: hardware reset gives the reset state at once. LATCHED is empty, or holds one word if
E was 1: R232 says that the display may latch one, and that it always does is the model's choice (notes/assumptions/2.md).
That nothing else is left in LATCHED, and that what the outside has yet to send stays, is the model's reading
(notes/assumptions/5.md). -/
def Obligations.HardwareResetGivesResetState : Prop :=
  ∀ (s : State) (rest : List EnvMove), s.env = .hardwareReset :: rest → ∃ t,
    step s = .next t ∧ (∀ i : Fin 12, t.lines[i] = false) ∧ t.busy = false ∧ t.tmr = 0#8 ∧ t.upc = 0#7 ∧
    t.now = 0 ∧ t.trace = [] ∧ (ctrl s.lines .e = false → t.latched = []) ∧
    (ctrl s.lines .e = true → ∃ w, t.latched = [w]) ∧ t.port = s.port ∧ t.env = rest ∧ Inv t

/-! ### Micro-operations -/

/-- R107: CLEAR drives the eight data lines low, leaves the four others, and logs `Data(0x00)`. -/
def Obligations.ClearDrivesDataLow : Prop :=
  ∀ s : State, ∃ l : Lines,
    execMicro .clear s = { s with lines := l, trace := s.trace ++ [.data 0x00#8] } ∧
    (∀ (k : Fin 8) (i : Fin 12), i.val + k.val = 8 → l[i] = false) ∧
    l[0] = s.lines[0] ∧ l[9] = s.lines[9] ∧ l[10] = s.lines[10] ∧ l[11] = s.lines[11]

/-- R108: LOAD sets the data lines whose bit is 1 and leaves every other line, so DATA becomes `DATA | c`; a buffer
operand is read when the LOAD executes. -/
def Obligations.LoadOnlySetsDataLines : Prop :=
  ∀ (s : State) (src : Src) (c : Byte), (src = .const c ∨ ∃ i, src = .buf i ∧ s.buf[i] = c) → ∃ l : Lines,
    execMicro (.load src) s = { s with lines := l, trace := s.trace ++ [.data (readData s.lines ||| c)] } ∧
    readData l = readData s.lines ||| c ∧
    (∀ (k : Fin 8) (i : Fin 12), i.val + k.val = 8 → l[i] = ((enc c)[k] || s.lines[i])) ∧
    l[0] = s.lines[0] ∧ l[9] = s.lines[9] ∧ l[10] = s.lines[10] ∧ l[11] = s.lines[11]

/-- R113, R38: SET writes one control line and logs it; the display latches `(RS, RW, DATA)` exactly when E is written 0
while it is 1. -/
def Obligations.SetWritesOneLine : Prop :=
  ∀ (s : State) (c : CtrlLine) (b : Bool), ∃ l : Lines, ∃ ws : List BusWord,
    execMicro (.set c b) s = { s with lines := l, trace := s.trace ++ [.set c b], latched := s.latched ++ ws } ∧
    l[ctrlIndex c] = b ∧ (∀ j : Fin 12, j ≠ ctrlIndex c → l[j] = s.lines[j]) ∧
    (c = .e ∧ b = false ∧ s.lines[9] = true → ws = [⟨s.lines[11], s.lines[10], readData s.lines⟩]) ∧
    (¬ (c = .e ∧ b = false ∧ s.lines[9] = true) → ws = [])

/-- R109: after `DELAY n` the block takes exactly `n` ticks under the eager schedule before anything else happens; every
line and every other register holds throughout. -/
def Obligations.DelayHoldsTheLines : Prop :=
  ∀ (s : State) (n : BitVec 8) (k : Nat),
    s.busy = true → s.tmr = 0#8 → s.env = [] → nextMicro s = some (.delay n) → k ≤ n.toNat →
      runSteps (k + 1) s = .next { s with
        upc := s.upc + 1#7, tmr := BitVec.ofNat 8 (n.toNat - k), now := s.now + k, trace := s.trace ++ [.wait n] }

/-- R60 item 2, R110: under any schedule at least TMR ticks pass before the block moves on. -/
def Obligations.DelayIsALowerBound : Prop :=
  ∀ (s t : State) (k : Nat), s.busy = true → NoReset s → runSteps k s = .next t →
    t.upc ≠ s.upc ∨ t.busy = false → s.now + s.tmr.toNat ≤ t.now

/-- R38: a step that is no hardware reset appends the word on the lines to LATCHED exactly when it makes E fall. -/
def Obligations.LatchedExactlyAtFallingEdges : Prop :=
  ∀ s t : State, step s = .next t → NoResetNow s →
    t.latched = s.latched ++
      (if s.lines[9] = true ∧ t.lines[9] = false then [⟨s.lines[11], s.lines[10], readData s.lines⟩] else [])

/-! ### The Bit Encoder -/

/-- R130, R131: the encoder's elements are the masked bits, it is injective, and its booleans spell the code. -/
def Obligations.EncoderSpellsTheCode : Prop :=
  (∀ (c : Byte) (k : Fin 8),
    (enc c)[k] = ((c &&& (1#8 <<< k.val)) != 0#8) ∧ ((enc c)[k] = true ↔ (c >>> k.val) &&& 1#8 = 1#8)) ∧
  (∀ c d : Byte, enc c = enc d → c = d) ∧
  ∀ c : Byte, c.toNat = ((List.finRange 8).map fun k => if (enc c)[k] then 2 ^ k.val else 0).sum

/-- R132: after CLEAR and LOAD the data lines spell the code, bit k on line 8 - k, whatever they held. -/
def Obligations.ClearThenLoadSpellsTheCode : Prop :=
  ∀ (s : State) (c : Byte), let t := execMicro (.load (.const c)) (execMicro .clear s)
    readData t.lines = c ∧ ∀ (k : Fin 8) (i : Fin 12), i.val + k.val = 8 → t.lines[i] = c.getLsbD k.val

/-! ### Micro-programs -/

/-- R101, R120: the length of each micro-program, its DELAYs' total, and the bound R27 puts on UPC. -/
def Obligations.MicroProgramCounts : Prop :=
  (∀ len, (prog .resetLcd len).length = 29 ∧ ((delaysOf (prog .resetLcd len)).map BitVec.toNat).sum = 13) ∧
  (∀ len, (prog .clearDataBits len).length = 1 ∧ delaysOf (prog .clearDataBits len) = []) ∧
  (∀ len : BitVec 8, len.toNat ≤ 16 → (prog .writeString len).length = 4 + 6 * len.toNat ∧
    ((delaysOf (prog .writeString len)).map BitVec.toNat).sum = 30 * len.toNat) ∧
  (∀ len : BitVec 8, 16 < len.toNat → prog .writeString len = []) ∧
  (∀ len, (prog .writeCharArray len).length = 34 ∧
    ((delaysOf (prog .writeCharArray len)).map BitVec.toNat).sum = 150) ∧
  ∀ o len, (prog o len).length ≤ 100

/-- R65: in every micro-program each LOAD is immediately preceded by CLEAR. -/
def Obligations.EveryLoadFollowsClear : Prop :=
  ∀ (o : Op) (len : BitVec 8) (j : Nat) (src : Src), (prog o len)[j]? = some (.load src) →
    1 ≤ j ∧ (prog o len)[j - 1]? = some .clear

/-- R29: a LOAD reads a buffer entry only at an index the same command's issue wrote. -/
def Obligations.LoadsReadOnlyLatchedEntries : Prop :=
  ∀ (o : Op) (len : BitVec 8) (i : Fin 16), .load (.buf i) ∈ prog o len →
    (o = .writeString ∧ i.val < len.toNat ∧ len.toNat ≤ 16) ∨ (o = .writeCharArray ∧ i.val < 5)

/-- R24: which command writes which line, and with which levels in which order; a line not listed is never written. -/
def Obligations.WhichCommandWritesWhichLine : Prop :=
  (∀ len, let p := prog .resetLcd len
    levelsWritten .led p = [true, false] ∧ levelsWritten .e p = (List.replicate 4 [true, false]).flatten ∧
    levelsWritten .rw p = [false] ∧ levelsWritten .rs p = [false] ∧
    dataWrites p = (initBytes Config.params.cmds).flatMap fun c => [.clear, .load (.const c)]) ∧
  (∀ len, let p := prog .clearDataBits len
    (∀ c, levelsWritten c p = []) ∧ dataWrites p = [.clear]) ∧
  (∀ len : BitVec 8, len.toNat ≤ 16 → let p := prog .writeString len
    levelsWritten .led p = [true, false] ∧ levelsWritten .e p = (List.replicate len.toNat [true, false]).flatten ∧
    levelsWritten .rw p = [] ∧ levelsWritten .rs p = [true, false] ∧
    dataWrites p = ((List.finRange 16).take len.toNat).flatMap fun i => [.clear, .load (.buf i)]) ∧
  (∀ len : BitVec 8, 16 < len.toNat → let p := prog .writeString len
    (∀ c, levelsWritten c p = []) ∧ dataWrites p = []) ∧
  ∀ len, let p := prog .writeCharArray len
    levelsWritten .led p = [true, false] ∧ levelsWritten .e p = (List.replicate 5 [true, false]).flatten ∧
    levelsWritten .rw p = [] ∧ levelsWritten .rs p = [true, false] ∧
    dataWrites p = ([0, 1, 2, 3, 4] : List (Fin 16)).flatMap fun i => [.clear, .load (.buf i)]

/-! ### Whole commands -/

/-- R172 (command bytes: the spec's defaults, notes/assumptions/1.md): RESET_LCD is issued and completes in 29
micro-operations and 13 ticks, whatever the lines held, and everything but the named state is as before. -/
def Obligations.ResetLcdCompletes : Prop :=
  ∀ s : State, s.busy = false → s.tmr = 0#8 → s.env = [] → ∃ t, exec .resetLcd s = .next t ∧
    runSteps 43 t = .next { s with
      op := .resetLcd, upc := 29#7, now := s.now + 13
      lines := lineVector false 0x0F#8 false false false
      trace := s.trace ++ [.wait 1#8, .set .rs false, .set .rw false, .set .led true,
        .data 0x00#8, .data 0x3C#8, .set .e true, .wait 1#8, .set .e false, .wait 2#8,
        .data 0x00#8, .data 0x01#8, .set .e true, .wait 1#8, .set .e false, .wait 2#8,
        .data 0x00#8, .data 0x02#8, .set .e true, .wait 1#8, .set .e false, .wait 2#8,
        .data 0x00#8, .data 0x0F#8, .set .e true, .wait 1#8, .set .e false, .wait 2#8, .set .led false]
      latched := s.latched ++ [⟨false, false, 0x3C#8⟩, ⟨false, false, 0x01#8⟩, ⟨false, false, 0x02#8⟩,
        ⟨false, false, 0x0F#8⟩] }

/-- R140, R141: CLEAR_DATA_BITS is issued and completes in no time: the data lines are low, the four other lines as
before, one event, nothing latched. -/
def Obligations.ClearDataBitsCompletes : Prop :=
  ∀ s : State, s.busy = false → s.tmr = 0#8 → s.env = [] → ∃ t l, exec .clearDataBits s = .next t ∧
    runSteps 2 t = .next { s with
      op := .clearDataBits, upc := 1#7, lines := l, trace := s.trace ++ [.data 0x00#8] } ∧
    (∀ (k : Fin 8) (i : Fin 12), i.val + k.val = 8 → l[i] = false) ∧
    l[0] = s.lines[0] ∧ l[9] = s.lines[9] ∧ l[10] = s.lines[10] ∧ l[11] = s.lines[11]

/-- R153 with R151 and R152: WRITE_STRING of at most 16 codes is issued and completes in `4 + 6 L` micro-operations and
`30 L` ticks, latching each code in order with the RW of issue; a longer one completes at once with no effect but LEN. -/
def Obligations.WriteStringCompletes : Prop :=
  ∀ (s : State) (cs : List Byte), ReadyEager s →
    (cs.length ≤ 16 → ∃ t b, exec (.writeString cs) s = .next t ∧
      runSteps (36 * cs.length + 5) t = .next { s with
        op := .writeString, upc := BitVec.ofNat 7 (4 + 6 * cs.length), len := BitVec.ofNat 8 cs.length, buf := b
        now := s.now + 30 * cs.length
        lines := lineVector false (if h : cs = [] then readData s.lines else cs.getLast h) false s.lines[10] false
        trace := s.trace ++ ([.set .led true, .set .rs true] ++
          cs.flatMap (fun c => [.data 0x00#8, .data c, .set .e true, .wait 10#8, .set .e false, .wait 20#8]) ++
          [.set .rs false, .set .led false])
        latched := s.latched ++ cs.map fun c => ⟨true, s.lines[10], c⟩ } ∧
      ∀ j : Fin 16, b[j] = (cs[j.val]?).getD s.buf[j]) ∧
    (16 < cs.length → ∃ t, exec (.writeString cs) s = .next t ∧
      runSteps 1 t = .next { s with
        op := .writeString, upc := 0#7, len := BitVec.ofNat 8 (min cs.length 255) })

/-- R162: WRITE_CHAR_ARRAY is issued and completes in 34 micro-operations and 150 ticks, latching its five codes in
order with the RW of issue. -/
def Obligations.WriteCharArrayCompletes : Prop :=
  ∀ (s : State) (a : Vector Byte 5), ReadyEager s → ∃ t b, exec (.writeCharArray a) s = .next t ∧
    runSteps 185 t = .next { s with
      op := .writeCharArray, upc := 34#7, buf := b, now := s.now + 150
      lines := lineVector false a[4] false s.lines[10] false
      trace := s.trace ++ ([.set .led true, .set .rs true] ++
        a.toList.flatMap (fun c => [.data 0x00#8, .data c, .set .e true, .wait 10#8, .set .e false, .wait 20#8]) ++
        [.set .rs false, .set .led false])
      latched := s.latched ++ a.toList.map fun c => ⟨true, s.lines[10], c⟩ } ∧
    ∀ j : Fin 16, b[j] = if h : j.val < 5 then a[j.val] else s.buf[j]

/-- R114: the small-step machine under the eager schedule refines the big-step `Run`, for every command. -/
def Obligations.EagerRunEqualsBigStep : Prop :=
  ∀ (i : Instr) (s t : State), ReadyEager s → exec i s = .next t →
    runSteps (eagerSteps i s.lines) t = .next (afterRun i t s.lines)

/-- R106, R114: under EVERY schedule, an issued command that has come to its idle state has left `Run`'s lines, events and
words, and has taken at least `Run`'s ticks; only NOW depends on the schedule. -/
def Obligations.EveryScheduleGivesRun : Prop :=
  ∀ (i : Instr) (s t u : State) (moves : List EnvMove) (n : Nat),
    ReadyEager s → s.port = [] → EnvMove.hardwareReset ∉ moves → exec i s = .next t →
    runSteps n { t with env := moves } = .next u → u.busy = false →
      u.lines = (run i s.lines).lines ∧ u.trace = s.trace ++ (run i s.lines).events ∧
      u.latched = s.latched ++ (run i s.lines).words ∧ s.now + (run i s.lines).ticks ≤ u.now

/-- R115: every issued command reaches DONE, however the environment's ticks are interleaved, within as many steps as the
script has moves and the eager run has steps. That ticks keep coming, R115's own proviso, is the model's choice
(notes/assumptions/7.md: a waiting block whose script is empty takes a TICK at each step). -/
def Obligations.EveryCommandTerminates : Prop :=
  ∀ (i : Instr) (s t : State) (moves : List EnvMove),
    ReadyEager s → s.port = [] → EnvMove.hardwareReset ∉ moves → exec i s = .next t →
      ∃ u, runSteps (moves.length + eagerSteps i s.lines) { t with env := moves } = .next u ∧ u.busy = false

/-- R173: RESET_LCD twice leaves the lines it leaves once; the observation is cumulative, eight words and 26 ticks. -/
def Obligations.ResetLcdIsIdempotent : Prop :=
  ∀ s : State, s.busy = false → s.tmr = 0#8 → s.env = [] → ∃ t u v w,
    exec .resetLcd s = .next t ∧ runSteps 43 t = .next u ∧ exec .resetLcd u = .next v ∧ runSteps 43 v = .next w ∧
    w.lines = u.lines ∧ w.now = s.now + 26 ∧ ∃ ws, u.latched = s.latched ++ ws ∧ ws.length = 4 ∧
      w.latched = s.latched ++ ws ++ ws

/-- R163 (a): WRITE_CHAR_ARRAY equals WRITE_STRING of the same five codes, event for event. -/
def Obligations.CharArrayEqualsString : Prop :=
  ∀ (s : State) (a : Vector Byte 5), ReadyEager s → ∃ t u v w,
    exec (.writeCharArray a) s = .next t ∧ runSteps 185 t = .next u ∧
    exec (.writeString a.toList) s = .next v ∧ runSteps 185 v = .next w ∧
    u.lines = w.lines ∧ u.trace = w.trace ∧ u.latched = w.latched ∧ u.now = w.now ∧ u.busy = false ∧ w.busy = false

/-- R178: with other controller command bytes only the four `Data(c)` events, the four words and the final DATA of
RESET_LCD change. -/
def Obligations.ResetLcdForAnyCommandBytes : Prop :=
  ∀ (c : Config.CmdBytes) (s : State), s.tmr = 0#8 →
    (progResetLcd c).length = 29 ∧
    runMicros (progResetLcd c) s = { s with
      now := s.now + 13
      lines := lineVector false c.displayOn false false false
      trace := s.trace ++ ([.wait 1#8, .set .rs false, .set .rw false, .set .led true] ++
        [c.functionSet, c.clearDisplay, c.returnHome, c.displayOn].flatMap (fun b =>
          [.data 0x00#8, .data b, .set .e true, .wait 1#8, .set .e false, .wait 2#8]) ++ [.set .led false])
      latched := s.latched ++ [c.functionSet, c.clearDisplay, c.returnHome, c.displayOn].map fun b =>
        ⟨false, false, b⟩ }

/-- R154, R252: character `i` of a string is latched exactly `30 i + 10` ticks after issue under the eager schedule. -/
def Obligations.CharacterLatchInstants : Prop :=
  ∀ (s : State) (cs : List Byte) (i : Nat) (h : i < cs.length), ReadyEager s → cs.length ≤ 16 →
    ∃ t u v, exec (.writeString cs) s = .next t ∧ runSteps (36 * i + 16) t = .next u ∧ step u = .next v ∧
      u.now = s.now + 30 * i + 10 ∧ v.now = u.now ∧ ctrl u.lines .e = true ∧ ctrl v.lines .e = false ∧
      v.latched = s.latched ++ (cs.take (i + 1)).map fun c => ⟨true, s.lines[10], c⟩

/-! ### Invariants -/

/-- The invariant holds right after reset (R34, R39). -/
def Obligations.InvariantAtReset : Prop := Inv State.reset

/-- Every step keeps the invariant: hardware reset, ticks, issues, micro-operations and DONE alike (R34). -/
def Obligations.StepKeepsInvariant : Prop := ∀ s t : State, Inv s → step s = .next t → Inv t

/-- R34 items 1, 2, 3 and 5, with R30's bound on the timer, in every state that meets the invariant. -/
def Obligations.ReachableStateFacts : Prop :=
  ∀ s : State, Inv s →
    s.lines[10] = false ∧
    (s.busy = false → s.lines[9] = false ∧ s.lines[0] = false ∧ s.lines[11] = false ∧ s.tmr = 0#8) ∧
    (∀ t, step s = .next t → NoResetNow s → readData t.lines ≠ readData s.lines → s.lines[9] = false) ∧
    (s.busy = true → nextMicro s = some .clear ∨ (∃ src, nextMicro s = some (.load src)) → s.lines[9] = false) ∧
    (s.lines[0] = true → s.busy = true) ∧
    s.tmr.toNat ≤ 20

/-- R34 item 4: E rises only right after a CLEAR, LOAD pair, falls only after a DELAY of the high time, and is followed
by the DELAY of the matching low time. -/
def Obligations.EnableEdgesAreFramed : Prop :=
  ∀ s t : State, Inv s → step s = .next t → NoResetNow s →
    (s.lines[9] = false → t.lines[9] = true →
      ∃ j src, s.upc.toNat = j + 2 ∧ (currentProg s)[j]? = some .clear ∧ (currentProg s)[j + 1]? = some (.load src)) ∧
    (s.lines[9] = true → t.lines[9] = false → ∃ h l,
      lastExecuted s = some (.delay h) ∧ nextMicro t = some (.delay l) ∧ ((h = 1#8 ∧ l = 2#8) ∨ (h = 10#8 ∧ l = 20#8)))

/-- R241: no data or control line changes while E is 1, but E itself. -/
def Obligations.LinesStableWhileEnableHigh : Prop :=
  ∀ s t : State, Inv s → step s = .next t → NoResetNow s → s.lines[9] = true →
    ∀ i : Fin 12, i ≠ 9 → t.lines[i] = s.lines[i]

/-- R82, R84: RW is 0 in every word the block sends, and the only controller commands it sends are RESET_LCD's four. Kept
by every step but a hardware reset while E is 1, whose word is unspecified (R232). -/
def Obligations.SentWordsFollowTheProtocol : Prop :=
  ∀ s t : State, Inv s → step s = .next t → (NoResetNow s ∨ ctrl s.lines .e = false) →
    (∀ w ∈ s.latched, ProtocolWord w) → ∀ w ∈ t.latched, ProtocolWord w

/-- R175, R213: during RESET_LCD, LED is 1 exactly from its `SET LED 1` (UPC 4) to its `SET LED 0` (UPC 29). -/
def Obligations.LedDuringResetLcd : Prop :=
  ∀ s : State, Inv s → s.busy = true → s.op = .resetLcd →
    (ctrl s.lines .led = true ↔ 4 ≤ s.upc.toNat ∧ s.upc.toNat ≤ 28)

/-- R39, R29, D8: what OP, LEN and BUF hold while no rule reads them cannot be observed: two states that differ in nothing
else take the same steps for ever. -/
def Obligations.UnreadStateIsUnobservable : Prop :=
  (∀ s s' t : State, SameObserved s t → step s = .next s' → ∃ t', step t = .next t' ∧ SameObserved s' t') ∧
  ∀ (s : State) (o : Op) (len : BitVec 8) (b : Buf), s.busy = false →
    SameObserved s { s with op := o, len := len, buf := b }
end

