-- ==== Sys2Proof/Laws/Frames.lean ====
section
/-! SUPPORT. The opcode byte, said once (R71, R79): which bytes are legal, and that opcode bytes and operations
correspond. -/

namespace Sys2Proof

/-- Bits 7:2 are zero exactly for the four legal opcode bytes (R71, R79). -/
theorem opcodeZero_iff (b : Byte) : opcodeZero b = 0#6 ↔ b.toNat < 4 := by
  revert b; decide

/-- An operation's opcode byte is legal and names that operation (R71). -/
theorem opcodeByte_fields (o : Op) :
    opcodeZero (opcodeByte o) = 0#6 ∧ opOfBits (opcodeOp (opcodeByte o)) = o := by
  cases o <;> decide

/-- A legal opcode byte is the opcode byte of the operation it names (R71). -/
theorem opcodeByte_of_legal (b : Byte) (h : opcodeZero b = 0#6) : b = opcodeByte (opOfBits (opcodeOp b)) := by
  revert b; decide

/-- The length byte of a string that has a frame is its length (R73). -/
theorem lengthByte_toNat {s : List Byte} (h : s.length ≤ maxFrameLen) : (BitVec.ofNat 8 s.length).toNat = s.length := by
  have : s.length ≤ 255 := h
  rw [BitVec.toNat_ofNat]
  omega

end Sys2Proof
end

