-- ==== Sys2Proof/Laws/Lines.lean ====
section
/-! SUPPORT. What reading and writing the line vector gives: each data line and each control line after `writeData`,
`driveHigh` and `lineVector`, and that those twelve readings determine the vector. -/

namespace Sys2Proof.Machine

/-- `MASK[k] = 1 << k` (R31). -/
theorem mask_eq (k : Fin Config.dataWidth) : mask k = 1#8 <<< k.val := by
  revert k; decide

/-- The index of data line `Dk` is `8 - k` (R21). -/
theorem dataLine_val (k : Fin Config.dataWidth) : (dataLine k).val = 8 - k.val := by
  revert k; decide

theorem mem_bitPositions (k : Fin Config.dataWidth) : k ∈ bitPositions := by
  revert k; decide

theorem bitPositions_nodup : bitPositions.Nodup := by decide

theorem dataLine_injective {j k : Fin Config.dataWidth} (h : (dataLine j).val = (dataLine k).val) : j = k := by
  revert j k; decide

theorem dataLine_ne_ctrlIndex (k : Fin Config.dataWidth) (c : CtrlLine) : (dataLine k).val ≠ (ctrlIndex c).val := by
  revert k; cases c <;> decide

theorem ctrlIndex_injective {c d : CtrlLine} (h : (ctrlIndex c).val = (ctrlIndex d).val) : c = d := by
  revert h; cases c <;> cases d <;> decide

/-- Every line is a data line or a control line (R21). -/
theorem line_cases (i : Fin Config.nLines) : (∃ k, i = dataLine k) ∨ ∃ c, i = ctrlIndex c := by
  revert i
  have h : ∀ i : Fin Config.nLines, (∃ k, i = dataLine k) ∨
      i = ctrlIndex .led ∨ i = ctrlIndex .e ∨ i = ctrlIndex .rw ∨ i = ctrlIndex .rs := by decide
  intro i
  rcases h i with h | h | h | h | h
  · exact .inl h
  all_goals exact .inr ⟨_, h⟩

theorem readData_getLsbD (l : Lines) (k : Fin Config.dataWidth) : (readData l).getLsbD k.val = l[dataLine k] := by
  simp [readData]

/-- The control lines and DATA determine the vector. -/
theorem lines_ext {l m : Lines} (hc : ∀ c, ctrl l c = ctrl m c) (hd : readData l = readData m) : l = m := by
  apply Vector.ext
  intro i hi
  rcases line_cases ⟨i, hi⟩ with ⟨k, hk⟩ | ⟨c, hk⟩
  · have h : l[dataLine k] = m[dataLine k] := by rw [← readData_getLsbD, ← readData_getLsbD, hd]
    simpa only [Fin.getElem_fin, ← hk] using h
  · have h := hc c
    simpa only [ctrl, Fin.getElem_fin, ← hk] using h

section Fold

variable (f : Lines → Fin Config.dataWidth → Lines)

/-- A fold that leaves line `i` alone at every position leaves it alone. -/
theorem fold_line_same (i : Fin Config.nLines) (ks : List (Fin Config.dataWidth)) (l : Lines)
    (h : ∀ l, ∀ k ∈ ks, (f l k)[i] = l[i]) : (ks.foldl f l)[i] = l[i] := by
  induction ks generalizing l with
  | nil => rfl
  | cons k ks ih =>
    rw [List.foldl_cons, ih _ fun l j hj => h l j (List.mem_cons_of_mem _ hj)]
    exact h l k List.mem_cons_self

/-- A fold over distinct positions that changes data line `k` only at position `k` gives it that position's value. -/
theorem fold_dataLine (g : Bool → Bool) (k : Fin Config.dataWidth) (ks : List (Fin Config.dataWidth)) (l : Lines)
    (hn : ks.Nodup) (hk : k ∈ ks) (hg : ∀ l, (f l k)[dataLine k] = g l[dataLine k])
    (h : ∀ l j, j ≠ k → (f l j)[dataLine k] = l[dataLine k]) : (ks.foldl f l)[dataLine k] = g l[dataLine k] := by
  induction ks generalizing l with
  | nil => simp at hk
  | cons j ks ih =>
    rw [List.nodup_cons] at hn
    rw [List.foldl_cons]
    by_cases hjk : j = k
    · subst hjk
      rw [fold_line_same f _ _ _ fun l i hi => h l i fun e => hn.1 (e ▸ hi)]
      exact hg l
    · have hk' : k ∈ ks := by
        rcases List.mem_cons.1 hk with e | e
        · exact absurd e.symm hjk
        · exact e
      rw [ih _ hn.2 hk', h l j hjk]

end Fold

theorem set_dataLine_ctrl (l : Lines) (k : Fin Config.dataWidth) (b : Bool) (c : CtrlLine) :
    (l.set (dataLine k) b)[ctrlIndex c] = l[ctrlIndex c] := by
  have := dataLine_ne_ctrlIndex k c
  simp [this]

theorem set_dataLine_ne (l : Lines) {j k : Fin Config.dataWidth} (b : Bool) (h : j ≠ k) :
    (l.set (dataLine j) b)[dataLine k] = l[dataLine k] := by
  have : (dataLine j).val ≠ (dataLine k).val := fun e => h (dataLine_injective e)
  simp [this]

/-- `DATA <- v` leaves the control lines alone (R23). -/
@[simp] theorem ctrl_writeData (v : Byte) (l : Lines) (c : CtrlLine) : ctrl (writeData v l) c = ctrl l c :=
  fold_line_same _ _ _ _ fun l k _ => set_dataLine_ctrl l k _ c

theorem writeData_dataLine (v : Byte) (l : Lines) (k : Fin Config.dataWidth) :
    (writeData v l)[dataLine k] = v.getLsbD k.val :=
  fold_dataLine _ (fun _ => v.getLsbD k.val) k _ l bitPositions_nodup (mem_bitPositions k)
    (fun l => by simp) (fun l _ h => set_dataLine_ne l _ h)

/-- After `DATA <- v`, DATA = v (R23). -/
@[simp] theorem readData_writeData (v : Byte) (l : Lines) : readData (writeData v l) = v := by
  apply BitVec.eq_of_getLsbD_eq
  intro i hi
  rw [show i = (⟨i, hi⟩ : Fin Config.dataWidth).val from rfl, readData_getLsbD, writeData_dataLine]

/-- LOAD leaves the control lines alone (R108). -/
@[simp] theorem ctrl_driveHigh (v : Byte) (l : Lines) (c : CtrlLine) : ctrl (driveHigh v l) c = ctrl l c := by
  refine fold_line_same _ _ _ _ fun l k _ => ?_
  split
  · exact set_dataLine_ctrl l k _ c
  · rfl

theorem driveHigh_dataLine (v : Byte) (l : Lines) (k : Fin Config.dataWidth) :
    (driveHigh v l)[dataLine k] = ((enc v)[k] || l[dataLine k]) := by
  refine fold_dataLine _ (fun b => (enc v)[k] || b) k _ l bitPositions_nodup (mem_bitPositions k) (fun l => ?_)
    (fun l j h => ?_)
  · split <;> simp_all
  · split
    · exact set_dataLine_ne l _ h
    · rfl

/-- Element `k` of `Enc(c)` is bit `k` of `c` (R131). -/
theorem enc_getElem (c : Byte) (k : Fin Config.dataWidth) : (enc c)[k] = c.getLsbD k.val := by
  have hm : mask k = BitVec.twoPow 8 k.val := mask_eq k
  have hk : BitVec.twoPow 8 k.val ≠ 0#8 := by revert k; decide
  simp only [enc, Fin.getElem_fin, Vector.getElem_ofFn, hm, BitVec.and_twoPow]
  cases c.getLsbD k.val <;> simp [hk]

/-- `LOAD` is `DATA <- DATA | c` (R108). -/
@[simp] theorem readData_driveHigh (v : Byte) (l : Lines) : readData (driveHigh v l) = readData l ||| v := by
  apply BitVec.eq_of_getLsbD_eq
  intro i hi
  rw [show i = (⟨i, hi⟩ : Fin Config.dataWidth).val from rfl, BitVec.getLsbD_or, readData_getLsbD, readData_getLsbD,
    driveHigh_dataLine, enc_getElem, Bool.or_comm]

/-- A control line after a write to a control line (R113). -/
theorem ctrl_set (l : Lines) (c d : CtrlLine) (b : Bool) :
    ctrl (l.set (ctrlIndex c) b) d = if c = d then b else ctrl l d := by
  unfold ctrl
  by_cases h : c = d
  · subst h; simp
  · have : (ctrlIndex c).val ≠ (ctrlIndex d).val := fun e => h (ctrlIndex_injective e)
    simp [this, h]

/-- A write to a control line leaves DATA alone (R113). -/
@[simp] theorem readData_set (l : Lines) (c : CtrlLine) (b : Bool) : readData (l.set (ctrlIndex c) b) = readData l := by
  apply BitVec.eq_of_getLsbD_eq
  intro i hi
  have := dataLine_ne_ctrlIndex ⟨i, hi⟩ c
  rw [show i = (⟨i, hi⟩ : Fin Config.dataWidth).val from rfl, readData_getLsbD, readData_getLsbD]
  simp [Ne.symm this]

@[simp] theorem ctrl_lineVector (led : Bool) (d : Byte) (e rw rs : Bool) (c : CtrlLine) :
    ctrl (lineVector led d e rw rs) c = (match c with | .led => led | .e => e | .rw => rw | .rs => rs) := by
  cases c <;> rfl

@[simp] theorem readData_lineVector (led : Bool) (d : Byte) (e rw rs : Bool) :
    readData (lineVector led d e rw rs) = d := by
  apply BitVec.eq_of_getLsbD_eq
  intro i hi
  rw [show i = (⟨i, hi⟩ : Fin Config.dataWidth).val from rfl, readData_getLsbD]
  have : ∀ k : Fin Config.dataWidth, (lineVector led d e rw rs)[dataLine k] = d.getLsbD k.val := by
    intro k; fin_cases k <;> rfl
  exact this _

/-- The vector with given readings is `lineVector` of them (R7). -/
theorem eq_lineVector (l : Lines) :
    l = lineVector (ctrl l .led) (readData l) (ctrl l .e) (ctrl l .rw) (ctrl l .rs) := by
  apply lines_ext
  · intro c; cases c <;> simp
  · simp

end Sys2Proof.Machine
end

