-- ==== Sys2Proof/Laws/State.lean ====
section
/-! SUPPORT. One lemma per field for each shared update of the state, so that no proof unfolds one: what a micro-operation,
TICK, DONE, MICRO's advance and hardware reset leave in each field. -/

namespace Sys2Proof.Machine

@[simp] theorem logEvent_lines (ev : Event) (s : State) : (logEvent ev s).lines = s.lines := rfl
@[simp] theorem logEvent_busy (ev : Event) (s : State) : (logEvent ev s).busy = s.busy := rfl
@[simp] theorem logEvent_op (ev : Event) (s : State) : (logEvent ev s).op = s.op := rfl
@[simp] theorem logEvent_upc (ev : Event) (s : State) : (logEvent ev s).upc = s.upc := rfl
@[simp] theorem logEvent_len (ev : Event) (s : State) : (logEvent ev s).len = s.len := rfl
@[simp] theorem logEvent_buf (ev : Event) (s : State) : (logEvent ev s).buf = s.buf := rfl
@[simp] theorem logEvent_tmr (ev : Event) (s : State) : (logEvent ev s).tmr = s.tmr := rfl
@[simp] theorem logEvent_now (ev : Event) (s : State) : (logEvent ev s).now = s.now := rfl
@[simp] theorem logEvent_trace (ev : Event) (s : State) : (logEvent ev s).trace = s.trace ++ [ev] := rfl
@[simp] theorem logEvent_latched (ev : Event) (s : State) : (logEvent ev s).latched = s.latched := rfl
@[simp] theorem logEvent_port (ev : Event) (s : State) : (logEvent ev s).port = s.port := rfl
@[simp] theorem logEvent_env (ev : Event) (s : State) : (logEvent ev s).env = s.env := rfl
@[simp] theorem logEvent_draws (ev : Event) (s : State) : (logEvent ev s).draws = s.draws := rfl

@[simp] theorem opSet_lines (i : CtrlLine) (b : Bool) (s : State) : (opSet i b s).lines = s.lines.set (ctrlIndex i) b := rfl
@[simp] theorem opSet_busy (i : CtrlLine) (b : Bool) (s : State) : (opSet i b s).busy = s.busy := rfl
@[simp] theorem opSet_op (i : CtrlLine) (b : Bool) (s : State) : (opSet i b s).op = s.op := rfl
@[simp] theorem opSet_upc (i : CtrlLine) (b : Bool) (s : State) : (opSet i b s).upc = s.upc := rfl
@[simp] theorem opSet_len (i : CtrlLine) (b : Bool) (s : State) : (opSet i b s).len = s.len := rfl
@[simp] theorem opSet_buf (i : CtrlLine) (b : Bool) (s : State) : (opSet i b s).buf = s.buf := rfl
@[simp] theorem opSet_tmr (i : CtrlLine) (b : Bool) (s : State) : (opSet i b s).tmr = s.tmr := rfl
@[simp] theorem opSet_now (i : CtrlLine) (b : Bool) (s : State) : (opSet i b s).now = s.now := rfl
@[simp] theorem opSet_trace (i : CtrlLine) (b : Bool) (s : State) : (opSet i b s).trace = s.trace ++ [.set i b] := rfl
@[simp] theorem opSet_latched (i : CtrlLine) (b : Bool) (s : State) : (opSet i b s).latched = s.latched ++ latchedBySet i b s.lines := rfl
@[simp] theorem opSet_port (i : CtrlLine) (b : Bool) (s : State) : (opSet i b s).port = s.port := rfl
@[simp] theorem opSet_env (i : CtrlLine) (b : Bool) (s : State) : (opSet i b s).env = s.env := rfl
@[simp] theorem opSet_draws (i : CtrlLine) (b : Bool) (s : State) : (opSet i b s).draws = s.draws := rfl

@[simp] theorem opClear_lines (s : State) : (opClear s).lines = writeData 0x00#8 s.lines := rfl
@[simp] theorem opClear_busy (s : State) : (opClear s).busy = s.busy := rfl
@[simp] theorem opClear_op (s : State) : (opClear s).op = s.op := rfl
@[simp] theorem opClear_upc (s : State) : (opClear s).upc = s.upc := rfl
@[simp] theorem opClear_len (s : State) : (opClear s).len = s.len := rfl
@[simp] theorem opClear_buf (s : State) : (opClear s).buf = s.buf := rfl
@[simp] theorem opClear_tmr (s : State) : (opClear s).tmr = s.tmr := rfl
@[simp] theorem opClear_now (s : State) : (opClear s).now = s.now := rfl
@[simp] theorem opClear_trace (s : State) : (opClear s).trace = s.trace ++ [.data 0x00#8] := rfl
@[simp] theorem opClear_latched (s : State) : (opClear s).latched = s.latched := rfl
@[simp] theorem opClear_port (s : State) : (opClear s).port = s.port := rfl
@[simp] theorem opClear_env (s : State) : (opClear s).env = s.env := rfl
@[simp] theorem opClear_draws (s : State) : (opClear s).draws = s.draws := rfl

@[simp] theorem opLoad_lines (src : Src) (s : State) : (opLoad src s).lines = driveHigh (srcValue s.buf src) s.lines := rfl
@[simp] theorem opLoad_busy (src : Src) (s : State) : (opLoad src s).busy = s.busy := rfl
@[simp] theorem opLoad_op (src : Src) (s : State) : (opLoad src s).op = s.op := rfl
@[simp] theorem opLoad_upc (src : Src) (s : State) : (opLoad src s).upc = s.upc := rfl
@[simp] theorem opLoad_len (src : Src) (s : State) : (opLoad src s).len = s.len := rfl
@[simp] theorem opLoad_buf (src : Src) (s : State) : (opLoad src s).buf = s.buf := rfl
@[simp] theorem opLoad_tmr (src : Src) (s : State) : (opLoad src s).tmr = s.tmr := rfl
@[simp] theorem opLoad_now (src : Src) (s : State) : (opLoad src s).now = s.now := rfl
@[simp] theorem opLoad_trace (src : Src) (s : State) : (opLoad src s).trace = s.trace ++ [.data (readData (driveHigh (srcValue s.buf src) s.lines))] := rfl
@[simp] theorem opLoad_latched (src : Src) (s : State) : (opLoad src s).latched = s.latched := rfl
@[simp] theorem opLoad_port (src : Src) (s : State) : (opLoad src s).port = s.port := rfl
@[simp] theorem opLoad_env (src : Src) (s : State) : (opLoad src s).env = s.env := rfl
@[simp] theorem opLoad_draws (src : Src) (s : State) : (opLoad src s).draws = s.draws := rfl

@[simp] theorem opDelay_lines (n : BitVec Config.tmrWidth) (s : State) : (opDelay n s).lines = s.lines := rfl
@[simp] theorem opDelay_busy (n : BitVec Config.tmrWidth) (s : State) : (opDelay n s).busy = s.busy := rfl
@[simp] theorem opDelay_op (n : BitVec Config.tmrWidth) (s : State) : (opDelay n s).op = s.op := rfl
@[simp] theorem opDelay_upc (n : BitVec Config.tmrWidth) (s : State) : (opDelay n s).upc = s.upc := rfl
@[simp] theorem opDelay_len (n : BitVec Config.tmrWidth) (s : State) : (opDelay n s).len = s.len := rfl
@[simp] theorem opDelay_buf (n : BitVec Config.tmrWidth) (s : State) : (opDelay n s).buf = s.buf := rfl
@[simp] theorem opDelay_tmr (n : BitVec Config.tmrWidth) (s : State) : (opDelay n s).tmr = n := rfl
@[simp] theorem opDelay_now (n : BitVec Config.tmrWidth) (s : State) : (opDelay n s).now = s.now := rfl
@[simp] theorem opDelay_trace (n : BitVec Config.tmrWidth) (s : State) : (opDelay n s).trace = s.trace ++ [.wait n] := rfl
@[simp] theorem opDelay_latched (n : BitVec Config.tmrWidth) (s : State) : (opDelay n s).latched = s.latched := rfl
@[simp] theorem opDelay_port (n : BitVec Config.tmrWidth) (s : State) : (opDelay n s).port = s.port := rfl
@[simp] theorem opDelay_env (n : BitVec Config.tmrWidth) (s : State) : (opDelay n s).env = s.env := rfl
@[simp] theorem opDelay_draws (n : BitVec Config.tmrWidth) (s : State) : (opDelay n s).draws = s.draws := rfl

@[simp] theorem done_lines (s : State) : (done s).lines = s.lines := rfl
@[simp] theorem done_busy (s : State) : (done s).busy = false := rfl
@[simp] theorem done_op (s : State) : (done s).op = s.op := rfl
@[simp] theorem done_upc (s : State) : (done s).upc = s.upc := rfl
@[simp] theorem done_len (s : State) : (done s).len = s.len := rfl
@[simp] theorem done_buf (s : State) : (done s).buf = s.buf := rfl
@[simp] theorem done_tmr (s : State) : (done s).tmr = s.tmr := rfl
@[simp] theorem done_now (s : State) : (done s).now = s.now := rfl
@[simp] theorem done_trace (s : State) : (done s).trace = s.trace := rfl
@[simp] theorem done_latched (s : State) : (done s).latched = s.latched := rfl
@[simp] theorem done_port (s : State) : (done s).port = s.port := rfl
@[simp] theorem done_env (s : State) : (done s).env = s.env := rfl
@[simp] theorem done_draws (s : State) : (done s).draws = s.draws := rfl

@[simp] theorem tick_lines (s : State) : (tick s).lines = s.lines := rfl
@[simp] theorem tick_busy (s : State) : (tick s).busy = s.busy := rfl
@[simp] theorem tick_op (s : State) : (tick s).op = s.op := rfl
@[simp] theorem tick_upc (s : State) : (tick s).upc = s.upc := rfl
@[simp] theorem tick_len (s : State) : (tick s).len = s.len := rfl
@[simp] theorem tick_buf (s : State) : (tick s).buf = s.buf := rfl
@[simp] theorem tick_tmr (s : State) : (tick s).tmr = if s.tmr = 0#8 then s.tmr else s.tmr - 1#8 := rfl
@[simp] theorem tick_now (s : State) : (tick s).now = s.now + 1 := rfl
@[simp] theorem tick_trace (s : State) : (tick s).trace = s.trace := rfl
@[simp] theorem tick_latched (s : State) : (tick s).latched = s.latched := rfl
@[simp] theorem tick_port (s : State) : (tick s).port = s.port := rfl
@[simp] theorem tick_env (s : State) : (tick s).env = s.env := rfl
@[simp] theorem tick_draws (s : State) : (tick s).draws = s.draws := rfl

@[simp] theorem execMicro_busy (m : MicroOp) (s : State) : (execMicro m s).busy = s.busy := by cases m <;> rfl
@[simp] theorem execMicro_op (m : MicroOp) (s : State) : (execMicro m s).op = s.op := by cases m <;> rfl
@[simp] theorem execMicro_upc (m : MicroOp) (s : State) : (execMicro m s).upc = s.upc := by cases m <;> rfl
@[simp] theorem execMicro_len (m : MicroOp) (s : State) : (execMicro m s).len = s.len := by cases m <;> rfl
@[simp] theorem execMicro_buf (m : MicroOp) (s : State) : (execMicro m s).buf = s.buf := by cases m <;> rfl
@[simp] theorem execMicro_now (m : MicroOp) (s : State) : (execMicro m s).now = s.now := by cases m <;> rfl
@[simp] theorem execMicro_port (m : MicroOp) (s : State) : (execMicro m s).port = s.port := by cases m <;> rfl
@[simp] theorem execMicro_env (m : MicroOp) (s : State) : (execMicro m s).env = s.env := by cases m <;> rfl
@[simp] theorem execMicro_draws (m : MicroOp) (s : State) : (execMicro m s).draws = s.draws := by cases m <;> rfl

@[simp] theorem micro_lines (m : MicroOp) (s : State) : (micro m s).lines = (execMicro m s).lines := rfl
@[simp] theorem micro_busy (m : MicroOp) (s : State) : (micro m s).busy = (execMicro m s).busy := rfl
@[simp] theorem micro_op (m : MicroOp) (s : State) : (micro m s).op = (execMicro m s).op := rfl
@[simp] theorem micro_len (m : MicroOp) (s : State) : (micro m s).len = (execMicro m s).len := rfl
@[simp] theorem micro_buf (m : MicroOp) (s : State) : (micro m s).buf = (execMicro m s).buf := rfl
@[simp] theorem micro_tmr (m : MicroOp) (s : State) : (micro m s).tmr = (execMicro m s).tmr := rfl
@[simp] theorem micro_now (m : MicroOp) (s : State) : (micro m s).now = (execMicro m s).now := rfl
@[simp] theorem micro_trace (m : MicroOp) (s : State) : (micro m s).trace = (execMicro m s).trace := rfl
@[simp] theorem micro_latched (m : MicroOp) (s : State) : (micro m s).latched = (execMicro m s).latched := rfl
@[simp] theorem micro_port (m : MicroOp) (s : State) : (micro m s).port = (execMicro m s).port := rfl
@[simp] theorem micro_env (m : MicroOp) (s : State) : (micro m s).env = (execMicro m s).env := rfl
@[simp] theorem micro_draws (m : MicroOp) (s : State) : (micro m s).draws = (execMicro m s).draws := rfl

@[simp] theorem micro_upc (m : MicroOp) (s : State) : (micro m s).upc = s.upc + 1#7 := by cases m <;> rfl

@[simp] theorem hardwareReset_lines (s : State) : (hardwareReset s).lines = State.reset.lines := rfl
@[simp] theorem hardwareReset_busy (s : State) : (hardwareReset s).busy = false := rfl
@[simp] theorem hardwareReset_op (s : State) : (hardwareReset s).op = State.reset.op := rfl
@[simp] theorem hardwareReset_upc (s : State) : (hardwareReset s).upc = 0#7 := rfl
@[simp] theorem hardwareReset_len (s : State) : (hardwareReset s).len = State.reset.len := rfl
@[simp] theorem hardwareReset_buf (s : State) : (hardwareReset s).buf = State.reset.buf := rfl
@[simp] theorem hardwareReset_tmr (s : State) : (hardwareReset s).tmr = 0#8 := rfl
@[simp] theorem hardwareReset_now (s : State) : (hardwareReset s).now = 0 := rfl
@[simp] theorem hardwareReset_trace (s : State) : (hardwareReset s).trace = [] := rfl
@[simp] theorem hardwareReset_latched (s : State) : (hardwareReset s).latched = if ctrl s.lines .e then [busWordOfBits (Config.resetLatchWord s.draws)] else [] := rfl
@[simp] theorem hardwareReset_port (s : State) : (hardwareReset s).port = s.port := rfl
@[simp] theorem hardwareReset_env (s : State) : (hardwareReset s).env = s.env := rfl
@[simp] theorem hardwareReset_draws (s : State) : (hardwareReset s).draws = if ctrl s.lines .e then s.draws + 1 else s.draws := rfl

/-- Every line is low right after reset (R39). -/
@[simp] theorem reset_ctrl (c : CtrlLine) : ctrl State.reset.lines c = false := by cases c <;> rfl

end Sys2Proof.Machine
end

