-- ==== Sys2Proof/Laws/Ops.lean ====
section
/-! SUPPORT. For each shared operation, once, everything it can do: ISSUE, a micro-operation, the operand latches. -/

namespace Sys2Proof.Machine

/-- The length guard passes exactly for 0 to 16 (R150). -/
theorem transmits_iff (len : BitVec Config.lenWidth) : transmits len = true ↔ len.toNat ≤ 16 := by
  unfold transmits
  exact decide_eq_true_iff

/-- What LEN becomes when a command is issued (R102). -/
def issuedLen (i : Instr) (s : State) : BitVec Config.lenWidth :=
  match i with
  | .resetLcd         => s.len
  | .clearDataBits    => s.len
  | .writeString cs   => lengthOperand cs
  | .writeCharArray _ => s.len

/-- What BUF becomes when a command is issued (R102). -/
def issuedBuf (i : Instr) (s : State) : Buf :=
  match i with
  | .resetLcd         => s.buf
  | .clearDataBits    => s.buf
  | .writeString cs   => stringBuf cs s.buf
  | .writeCharArray a => arrayBuf a s.buf

/-- The state ISSUE leaves (R102). -/
def issued (i : Instr) (s : State) : State :=
  { s with op := opOf i, len := issuedLen i s, buf := issuedBuf i s, upc := 0#7, busy := true }

theorem exec_idle (i : Instr) {s : State} (h : s.busy = false) : exec i s = .next (issued i s) := by
  cases i <;> simp [exec, execResetLcd, execClearDataBits, execWriteString, execWriteCharArray, issue, ready, h, issued,
    opOf, issuedLen, issuedBuf]

theorem exec_busy (i : Instr) {s : State} (h : s.busy = true) : exec i s = .next s := by
  cases i <;> simp [exec, execResetLcd, execClearDataBits, execWriteString, execWriteCharArray, issue, ready, h]

/-- Everything `exec` can do: hold the command of a busy block, or issue it (R102, R219). -/
theorem exec_cases {i : Instr} {s t : State} (h : exec i s = .next t) :
    (s.busy = true ∧ t = s) ∨ (s.busy = false ∧ t = issued i s) := by
  cases hb : s.busy
  · rw [exec_idle i hb] at h; cases h; exact .inr ⟨rfl, rfl⟩
  · rw [exec_busy i hb] at h; cases h; exact .inl ⟨rfl, rfl⟩

/-- The state a run works on while it ignores what the issue latched is unchanged by ISSUE. -/
theorem issued_lines (i : Instr) (s : State) : (issued i s).lines = s.lines := rfl

/-- BUF after latching codes from index `j` (R74). -/
theorem latchCodes_getElem (cs : List Byte) (j : Nat) (b : Buf) (i : Nat) (hi : i < Config.bufDepth) :
    (latchCodes cs j b)[i] = if j ≤ i then (cs[i - j]?).getD b[i] else b[i] := by
  induction cs generalizing j b with
  | nil => simp [latchCodes]
  | cons c cs ih =>
    rw [latchCodes, ih]
    rcases Nat.lt_trichotomy i j with h | h | h
    · have h1 : ¬ j + 1 ≤ i := by omega
      have h2 : ¬ j ≤ i := by omega
      have h3 : j ≠ i := by omega
      simp [h1, h2, h3]
    · subst h
      simp
    · have h1 : j + 1 ≤ i := by omega
      have h2 : j ≤ i := by omega
      have h3 : j ≠ i := by omega
      have h4 : i - j = (i - (j + 1)) + 1 := by omega
      simp [h1, h2, h3, h4]

/-- BUF after the issue of WRITE_STRING, entry by entry (R74, R102). -/
theorem stringBuf_getElem (cs : List Byte) (b : Buf) (j : Fin Config.bufDepth) :
    (stringBuf cs b)[j] = if cs.length ≤ 16 then (cs[j.val]?).getD b[j] else b[j] := by
  by_cases h : cs.length ≤ 16
  · rw [if_pos h, show stringBuf cs b = latchCodes cs 0 b from if_pos h]
    simp [latchCodes_getElem]
  · rw [if_neg h, show stringBuf cs b = b from if_neg h]

/-- BUF after the issue of WRITE_CHAR_ARRAY, entry by entry (R75, R102). -/
theorem arrayBuf_getElem (a : Vector Byte Config.arrayLen) (b : Buf) (j : Fin Config.bufDepth) :
    (arrayBuf a b)[j] = if h : j.val < 5 then a[j.val] else b[j] := by
  unfold arrayBuf
  simp only [Fin.getElem_fin, latchCodes_getElem, Nat.zero_le, if_true, Nat.sub_zero]
  split
  · rename_i h
    rw [Vector.getElem?_toList, Vector.getElem?_eq_getElem h]
    rfl
  · rename_i h
    rw [Vector.getElem?_toList, Vector.getElem?_eq_none (Nat.le_of_not_lt h)]
    rfl

end Sys2Proof.Machine
end

