-- ==== Sys2Proof/Laws/Step.lean ====
section
/-! SUPPORT. Everything a step can do, said once: an inversion lemma for the sequencer and one for `step`. -/

namespace Sys2Proof.Machine

/-- The four things a busy block can do (R103 to R106). -/
theorem sequencerStep_cases (s : State) :
    (s.tmr ≠ 0#8 ∧ sequencerStep s = tick s) ∨
    (s.tmr = 0#8 ∧ ∃ m, nextMicro s = some m ∧ sequencerStep s = micro m s) ∨
    (s.tmr = 0#8 ∧ s.upc.toNat = (currentProg s).length ∧ sequencerStep s = done s) ∨
    (s.tmr = 0#8 ∧ (currentProg s).length < s.upc.toNat ∧ sequencerStep s = tick s) := by
  by_cases ht : s.tmr = 0#8
  · right
    cases hm : nextMicro s with
    | some m =>
      left
      refine ⟨ht, m, rfl, ?_⟩
      unfold nextMicro at hm
      simp [sequencerStep, ht, hm]
    | none =>
      right
      unfold nextMicro at hm
      have hle := List.getElem?_eq_none_iff.1 hm
      by_cases hu : s.upc.toNat = (currentProg s).length
      · left
        exact ⟨ht, hu, by simp [sequencerStep, ht, hu]⟩
      · right
        exact ⟨ht, by omega, by simp [sequencerStep, ht, hm, hu]⟩
  · exact .inl ⟨ht, by simp [sequencerStep, ht]⟩

theorem sequencerStep_wait {s : State} (h : s.tmr ≠ 0#8) : sequencerStep s = tick s := by
  simp [sequencerStep, h]

theorem sequencerStep_micro {s : State} {m : MicroOp} (h : s.tmr = 0#8) (hm : nextMicro s = some m) :
    sequencerStep s = micro m s := by
  unfold nextMicro at hm
  simp [sequencerStep, h, hm]

theorem sequencerStep_done {s : State} (h : s.tmr = 0#8) (hu : s.upc.toNat = (currentProg s).length) :
    sequencerStep s = done s := by
  simp [sequencerStep, h, hu]

/-- A step in which the environment does not intervene is the block's or the host's (R106). -/
theorem step_blockMoves {s : State} (h : BlockMoves s) : step s = blockStep { s with env := s.env.tail } := by
  obtain h | h := h
  · have hs : { s with env := s.env.tail } = s := by cases s; simp_all
    rw [hs]
    simp only [step, agentStep, h]
  · cases he : s.env with
    | nil => simp [he] at h
    | cons m ms =>
      rw [he, List.head?_cons, Option.some.injEq] at h
      subst h
      simp [step, agentStep, he]

theorem blockStep_idle {s : State} (hb : s.busy = false) (hp : s.port ≠ []) :
    blockStep s = match decode s.port with
      | .ok i rest  => exec i { s with port := rest }
      | .refuse why => .refused (.frame why) := by
  cases h : s.port with
  | nil => exact absurd h hp
  | cons b bs =>
    cases hd : decode (b :: bs) <;> simp [blockStep, hb, hostStep, h, hd]

theorem step_busy {s : State} (h : BlockMoves s) (hb : s.busy = true) :
    step s = .next (sequencerStep { s with env := s.env.tail }) := by
  simp [step_blockMoves h, blockStep, hb]

theorem step_tick {s : State} {rest : List EnvMove} (h : s.env = .tick :: rest) :
    step s = .next (tick { s with env := rest }) := by
  simp [step, agentStep, h]

theorem step_reset {s : State} {rest : List EnvMove} (h : s.env = .hardwareReset :: rest) :
    step s = .next (hardwareReset { s with env := rest }) := by
  simp [step, agentStep, h]

theorem step_idle {s : State} (h : BlockMoves s) (hb : s.busy = false) (hp : s.port = []) :
    step s = .next (tick { s with env := s.env.tail }) := by
  simp [step_blockMoves h, blockStep, hb, hostStep, hp]

/-- The environment's next move, if it has one. -/
theorem env_cases (s : State) :
    BlockMoves s ∨ (∃ rest, s.env = .tick :: rest) ∨ (∃ rest, s.env = .hardwareReset :: rest) := by
  cases he : s.env with
  | nil => exact .inl (.inl he)
  | cons m ms =>
    cases m with
    | pass => exact .inl (.inr (by simp [he]))
    | tick => exact .inr (.inl ⟨ms, rfl⟩)
    | hardwareReset => exact .inr (.inr ⟨ms, rfl⟩)

/-- When a run is over (R119). -/
theorem runOver_iff (s : State) : runOver s = true ↔ s.port = [] ∧ s.busy = false := by
  simp [runOver, ready]

/-- Everything a step that answers a next state can do (R102 to R106, R232). -/
theorem step_cases {s t : State} (h : step s = .next t) :
    (∃ rest, s.env = .hardwareReset :: rest ∧ t = hardwareReset { s with env := rest }) ∨
    (∃ rest, s.env = .tick :: rest ∧ t = tick { s with env := rest }) ∨
    (BlockMoves s ∧ s.busy = true ∧ t = sequencerStep { s with env := s.env.tail }) ∨
    (BlockMoves s ∧ s.busy = false ∧ s.port = [] ∧ t = tick { s with env := s.env.tail }) ∨
    (BlockMoves s ∧ s.busy = false ∧ ∃ i rest, decode s.port = .ok i rest ∧
      t = issued i { s with port := rest, env := s.env.tail }) := by
  rcases env_cases s with hm | ⟨rest, he⟩ | ⟨rest, he⟩
  · by_cases hb : s.busy = true
    · rw [step_busy hm hb] at h
      cases h
      exact .inr (.inr (.inl ⟨hm, hb, rfl⟩))
    · rw [Bool.not_eq_true] at hb
      by_cases hp : s.port = []
      · rw [step_idle hm hb hp] at h
        cases h
        exact .inr (.inr (.inr (.inl ⟨hm, hb, hp, rfl⟩)))
      · rw [step_blockMoves hm, blockStep_idle (by exact hb) (by exact hp)] at h
        dsimp only at h
        cases hd : decode s.port with
        | ok i rest =>
          rw [hd] at h
          dsimp only at h
          rw [exec_idle _ (by exact hb)] at h
          cases h
          exact .inr (.inr (.inr (.inr ⟨hm, hb, i, rest, rfl, rfl⟩)))
        | refuse why => rw [hd] at h; cases h
  · rw [step_tick he] at h
    cases h
    exact .inr (.inl ⟨rest, he, rfl⟩)
  · rw [step_reset he] at h
    cases h
    exact .inl ⟨rest, he, rfl⟩

/-- One more step of a run, at its front. -/
theorem runSteps_succ (n : Nat) (s : State) :
    runSteps (n + 1) s = match step s with
      | .next t => runSteps n t
      | .fault r => .fault r
      | .refused r => .refused r := by
  refine (Host.Core.run.eq_2 core s n).trans ?_
  rw [show core.step s = step s from rfl]
  cases step s <;> rfl

theorem runSteps_zero (s : State) : runSteps 0 s = .next s := rfl

theorem runSteps_next {n : Nat} {s t : State} (h : step s = .next t) : runSteps (n + 1) s = runSteps n t := by
  rw [runSteps_succ, h]

/-- A run cut in two. -/
theorem runSteps_add (m n : Nat) {s t : State} (h : runSteps m s = .next t) :
    runSteps (m + n) s = runSteps n t := by
  induction m generalizing s with
  | zero => rw [runSteps_zero] at h; cases h; rw [Nat.zero_add]
  | succ m ih =>
    rw [Nat.succ_add]
    rw [runSteps_succ] at h ⊢
    cases hs : step s with
    | next u => rw [hs] at h; exact ih h
    | fault r => rw [hs] at h; cases h
    | refused r => rw [hs] at h; cases h

end Sys2Proof.Machine
end

