-- ==== Sys2Proof/Laws/MicroPrograms.lean ====
section
/-! SUPPORT. The micro-programs and UPC: every `Prog(OP, LEN)` is one of twenty lists (R101), and what MICRO does to the
executed part of one (R103). -/

namespace Sys2Proof.Machine

/-- The bytes RESET_LCD sends, in order (R54, R83). -/
theorem initBytes_eq (c : Config.CmdBytes) :
    initBytes c = [c.functionSet, c.clearDisplay, c.returnHome, c.displayOn] := rfl

/-- WRITE_STRING's program when the guard passes (R151). -/
theorem prog_writeString_transmits {len : BitVec Config.lenWidth} (h : len.toNat ≤ 16) :
    prog .writeString len = characterProgram len.toNat := if_pos ((transmits_iff len).2 h)

/-- WRITE_STRING's program when it does not (R152). -/
theorem prog_writeString_dropped {len : BitVec Config.lenWidth} (h : 16 < len.toNat) : prog .writeString len = [] :=
  if_neg fun ht => Nat.not_lt.2 ((transmits_iff len).1 ht) h

/-- What holds of the twenty lists holds of every micro-program (R101). -/
theorem prog_cases (P : Op → List MicroOp → Prop) (h0 : P .resetLcd (progResetLcd Config.params.cmds))
    (h1 : P .clearDataBits [.clear]) (h2 : P .writeString [])
    (h3 : ∀ n : Fin 17, P .writeString (characterProgram n.val)) (h4 : P .writeCharArray (characterProgram 5))
    (o : Op) (len : BitVec Config.lenWidth) : P o (prog o len) := by
  cases o with
  | resetLcd => exact h0
  | clearDataBits => exact h1
  | writeString =>
    by_cases h : len.toNat ≤ 16
    · rw [prog_writeString_transmits h]; exact h3 ⟨len.toNat, by omega⟩
    · rw [prog_writeString_dropped (by omega)]; exact h2
  | writeCharArray => exact h4

/-- UPC has room for every index and for "past the end" (R27). -/
theorem prog_length_lt (o : Op) (len : BitVec Config.lenWidth) : (prog o len).length < 2 ^ Config.upcWidth :=
  prog_cases (fun _ p => p.length < 2 ^ Config.upcWidth) (by decide) (by decide) (by decide) (by decide) (by decide)
    o len

theorem nextMicro_lt {s : State} {m : MicroOp} (h : nextMicro s = some m) : s.upc.toNat < (currentProg s).length :=
  (List.getElem?_eq_some_iff.1 h).1

theorem nextMicro_mem {s : State} {m : MicroOp} (h : nextMicro s = some m) : m ∈ prog s.op s.len :=
  List.mem_of_getElem? h

/-- UPC does not wrap (R27). -/
theorem upc_succ_toNat {s : State} {m : MicroOp} (h : nextMicro s = some m) :
    (s.upc + 1#7).toNat = s.upc.toNat + 1 := by
  have h1 := nextMicro_lt h
  have h2 : (currentProg s).length < 128 := prog_length_lt _ _
  rw [BitVec.toNat_add]
  exact Nat.mod_eq_of_lt (show s.upc.toNat + 1 < 128 by omega)

@[simp] theorem currentProg_micro (m : MicroOp) (s : State) : currentProg (micro m s) = currentProg s := by
  simp [currentProg]

/-- MICRO moves one micro-operation from "next" to "executed" (R103). -/
theorem executed_micro {s : State} {m : MicroOp} (h : nextMicro s = some m) :
    executed (micro m s) = executed s ++ [m] := by
  unfold executed
  rw [currentProg_micro, micro_upc, upc_succ_toNat h, List.take_add_one, show (currentProg s)[s.upc.toNat]? = _ from h]
  rfl

theorem lastExecuted_micro {s : State} {m : MicroOp} (h : nextMicro s = some m) :
    lastExecuted (micro m s) = some m := by
  simp [lastExecuted, executed_micro h]

theorem lastExecuted_eq {s : State} (hu : s.upc.toNat ≤ (currentProg s).length) (h0 : 0 < s.upc.toNat) :
    lastExecuted s = (currentProg s)[s.upc.toNat - 1]? := by
  unfold lastExecuted executed
  rw [List.getLast?_eq_getElem?, List.length_take, Nat.min_eq_left hu, List.getElem?_take, if_pos (by omega)]

theorem levelAfter_snoc (c : CtrlLine) (b : Bool) (ms : List MicroOp) (m : MicroOp) :
    levelAfter c b (ms ++ [m]) = (match m with
      | .set c' b' => if c' = c then b' else levelAfter c b ms
      | .clear     => levelAfter c b ms
      | .load _    => levelAfter c b ms
      | .delay _   => levelAfter c b ms) := by
  unfold levelAfter
  rw [List.foldl_append]; cases m <;> rfl

theorem dataSource_snoc (ms : List MicroOp) (m : MicroOp) :
    dataSource (ms ++ [m]) = (match m with
      | .set _ _  => dataSource ms
      | .clear    => some (.const 0x00#8)
      | .load src => some src
      | .delay _  => dataSource ms) := by
  unfold dataSource
  rw [List.foldl_append]; cases m <;> rfl

/-- Only SET writes a control line (R113). -/
theorem ctrl_micro (m : MicroOp) (s : State) (c : CtrlLine) :
    ctrl (micro m s).lines c = (match m with
      | .set c' b' => if c' = c then b' else ctrl s.lines c
      | .clear     => ctrl s.lines c
      | .load _    => ctrl s.lines c
      | .delay _   => ctrl s.lines c) := by
  cases m <;> simp [execMicro, ctrl_set]

end Sys2Proof.Machine
end

