-- ==== Sys2Proof/Laws/PerInstr.lean ====
section
/-! SUPPORT. The per-instruction family FrameLength (R72, R73, R75, R76): one lemma per constructor of `Instr`. -/

namespace Sys2Proof.Laws.FrameLength

/-- The frame of a well-formed command, with anything after it, tells its own length by its first one or two bytes (R76),
and is no longer than the longest frame (R73). -/
def Statement (i : Instr) : Prop :=
  wellFormed i = true →
    (∀ r : List Byte, frameLength (encode i ++ r) = some (encode i).length) ∧ (encode i).length ≤ longestFrame

theorem resetLcd : Statement .resetLcd := fun _ => ⟨fun _ => rfl, by decide⟩

theorem clearDataBits : Statement .clearDataBits := fun _ => ⟨fun _ => rfl, by decide⟩

theorem writeString (s : List Byte) : Statement (.writeString s) := by
  intro hw
  have hs : s.length ≤ 255 := of_decide_eq_true hw
  have h := opcodeByte_fields .writeString
  refine ⟨fun r => ?_, ?_⟩
  · simp only [encode, opOf, encodeOperands, List.cons_append, frameLength, h.1, h.2, if_true,
      lengthByte_toNat (show s.length ≤ maxFrameLen from hs), List.length_cons]
    congr 1
    omega
  · simp only [encode, encodeOperands, List.length_cons, longestFrame]
    omega

theorem writeCharArray (a : Vector Byte Config.arrayLen) : Statement (.writeCharArray a) := by
  intro _
  have h := opcodeByte_fields .writeCharArray
  have hl : (encode (.writeCharArray a)).length = 6 := by simp [encode, encodeOperands]
  refine ⟨fun r => ?_, by rw [hl]; decide⟩
  rw [hl]
  simp only [encode, opOf, List.cons_append, frameLength, h.1, h.2, if_true]

end Sys2Proof.Laws.FrameLength
end

