-- ==== Sys2Proof/Laws/Runs.lean ====
section
/-! SUPPORT. Runs under the eager schedule (R106): a DELAY counting down, one micro-operation with its ticks, and a list
of micro-operations, each said once. -/

namespace Sys2Proof.Machine

/-- The ticks a micro-operation asks for (R251). -/
def opTicks : MicroOp → Nat
  | .set _ _ => 0
  | .clear   => 0
  | .load _  => 0
  | .delay n => n.toNat

/-- The ticks a list of micro-operations asks for (R251). -/
def listTicks (ms : List MicroOp) : Nat := (ms.map opTicks).sum

theorem listTicks_append (a b : List MicroOp) : listTicks (a ++ b) = listTicks a + listTicks b := by
  simp [listTicks]

theorem execMicro_tmr_toNat {s : State} (m : MicroOp) (h : s.tmr = 0#8) : (execMicro m s).tmr.toNat = opTicks m := by
  cases m <;> simp [execMicro, h, opTicks]

theorem tmr_pred (t : BitVec Config.tmrWidth) (h : t ≠ 0#8) : (t - 1#8).toNat = t.toNat - 1 ∧ 0 < t.toNat := by
  revert t; decide

theorem runMicro_upc (s : State) (m : MicroOp) (u : BitVec Config.upcWidth) :
    runMicro { s with upc := u } m = { runMicro s m with upc := u } := by
  cases m <;> rfl

theorem runMicros_cons (m : MicroOp) (ms : List MicroOp) (s : State) :
    runMicros (m :: ms) s = runMicros ms (runMicro s m) := rfl

theorem runMicros_append (a b : List MicroOp) (s : State) : runMicros (a ++ b) s = runMicros b (runMicros a s) :=
  List.foldl_append

theorem runMicros_upc (ms : List MicroOp) (s : State) (u : BitVec Config.upcWidth) :
    runMicros ms { s with upc := u } = { runMicros ms s with upc := u } := by
  induction ms generalizing s with
  | nil => rfl
  | cons m ms ih => rw [runMicros_cons, runMicro_upc, ih]; rfl

/-- A waiting block counts its timer down (R105, R106). -/
theorem runSteps_countdown (k : Nat) {s : State} (hb : s.busy = true) (he : s.env = []) (hk : k ≤ s.tmr.toNat) :
    runSteps k s = .next { s with tmr := BitVec.ofNat 8 (s.tmr.toNat - k), now := s.now + k } := by
  induction k generalizing s with
  | zero => simp [runSteps_zero]
  | succ k ih =>
    have ht : s.tmr ≠ 0#8 := fun h => by rw [h] at hk; simp at hk
    have h1 := (tmr_pred _ ht).1
    rw [runSteps_next (step_busy (.inl he) hb), sequencerStep_wait (by exact ht),
      ih (by simpa using hb) (by simp [he]) (by rw [tick_tmr, if_neg (by exact ht), h1]; omega)]
    simp only [tick, ht, if_false, h1, he, List.tail_nil]
    congr 2
    · congr 1; omega
    · omega

/-- One micro-operation and all its ticks (R103, R109). -/
theorem runSteps_micro {s : State} {m : MicroOp} (hb : s.busy = true) (ht : s.tmr = 0#8) (he : s.env = [])
    (hm : nextMicro s = some m) :
    runSteps (1 + opTicks m) s = .next { runMicro s m with upc := s.upc + 1#7 } := by
  have hs : ({ s with env := s.env.tail } : State) = s := by cases s; simp_all
  rw [Nat.add_comm, runSteps_next (t := micro m s) (by rw [step_busy (.inl he) hb, hs, sequencerStep_micro ht hm]),
    ← execMicro_tmr_toNat m ht, show (execMicro m s).tmr = (micro m s).tmr by simp,
    runSteps_countdown _ (by simpa using hb) (by simpa using he) (Nat.le_refl _)]
  simp [micro, runMicro]

/-- The next micro-operations of the program, run one after another with all their ticks (R103, R106). -/
theorem runSteps_list (ms rest : List MicroOp) {s : State} (hb : s.busy = true) (ht : s.tmr = 0#8) (he : s.env = [])
    (hp : (currentProg s).drop s.upc.toNat = ms ++ rest) :
    runSteps (ms.length + listTicks ms) s =
      .next { runMicros ms s with upc := s.upc + BitVec.ofNat 7 ms.length } := by
  induction ms generalizing s with
  | nil => simp [listTicks, runSteps_zero, runMicros]
  | cons m ms ih =>
    have hm : nextMicro s = some m := by
      have := congrArg List.head? hp
      rw [List.head?_drop] at this
      exact this
    have hc : currentProg { runMicro s m with upc := s.upc + 1#7 } = currentProg s := by cases m <;> rfl
    rw [show (m :: ms).length + listTicks (m :: ms) = (1 + opTicks m) + (ms.length + listTicks ms) by
        simp [listTicks]; omega,
      runSteps_add _ _ (runSteps_micro hb ht he hm), ih]
    · rw [runMicros_upc, runMicros_cons]
      have : s.upc + 1#7 + BitVec.ofNat 7 ms.length = s.upc + BitVec.ofNat 7 (m :: ms).length := by
        rw [BitVec.add_assoc]; congr 1
        apply BitVec.eq_of_toNat_eq; simp [Nat.add_comm]
      rw [← this]
    · cases m <;> simpa [runMicro] using hb
    · rfl
    · cases m <;> simpa [runMicro] using he
    · rw [hc]
      show (currentProg s).drop (s.upc + 1#7).toNat = _
      rw [upc_succ_toNat hm, ← List.drop_drop, hp]; rfl

end Sys2Proof.Machine
end

