-- ==== Sys2Proof/Tests/Slice0.lean ====
section
/-! SUPPORT. The model's own tests: each expected value is written out from spec/95_test_vectors.md or from the table of
the rule the comment names. Each runs at most one step. After them, one witness for the hypotheses of each statement. -/

namespace Sys2Proof.Tests

open Sys2Proof.Machine

/-- The next state of an outcome, if it is one. -/
def stateOf : Host.Outcome State Fault Refusal → Option State
  | .next s    => some s
  | .fault _   => none
  | .refused _ => none

/-- The reset state with given lines. -/
def withLines (l : Lines) : State := { State.reset with lines := l }

/-- A state in the middle of RESET_LCD (whose number OP holds at reset). -/
def midReset (upc : BitVec 7) (tmr : BitVec 8) (l : Lines) : State :=
  { State.reset with busy := true, upc := upc, tmr := tmr, lines := l }

/-- WRITE_STRING "A" in progress (V-STEP): OP = 2, LEN = 1, BUF[0] = 0x41. -/
def midA (upc : BitVec 7) (tmr : BitVec 8) (l : Lines) : State :=
  { State.reset with busy := true, op := .writeString, len := 1#8, buf := State.reset.buf.set 0 0x41#8,
                     upc := upc, tmr := tmr, lines := l }

/-- The 16 codes 0x30..0x39, 0x41..0x46 of V-WS. -/
def codes16 : List Byte :=
  [0x30#8, 0x31#8, 0x32#8, 0x33#8, 0x34#8, 0x35#8, 0x36#8, 0x37#8] ++
  [0x38#8, 0x39#8, 0x41#8, 0x42#8, 0x43#8, 0x44#8, 0x45#8, 0x46#8]

/-- The 17 codes of V-WS. -/
def codes17 : List Byte := codes16 ++ [0x47#8]

/-! ### Well-formedness (R73): its one check, the term it refuses, and its boundary -/

theorem test_wellFormed_refuses_256_codes : wellFormed (.writeString (List.replicate 256 0x41#8)) = false := by decide +kernel
theorem test_wellFormed_accepts_255_codes : wellFormed (.writeString (List.replicate 255 0x41#8)) = true := by decide +kernel

/-! ### Decoding (V-DEC, R71 to R80): every constructor by a word written out, and every refusal -/

theorem test_decode_empty : decode [] = .refuse .empty := by decide
theorem test_decode_reset : decode [0b00000000#8] = .ok .resetLcd [] := by decide
theorem test_decode_clear_rest : decode [0b00000001#8, 0xFF#8] = .ok .clearDataBits [0xFF#8] := by decide
theorem test_decode_string_no_length : decode [0b00000010#8] = .refuse .truncated := by decide
theorem test_decode_string_empty : decode [0b00000010#8, 0x00#8] = .ok (.writeString []) [] := by decide
theorem test_decode_string_short : decode [0x02#8, 0x02#8, 0x48#8] = .refuse .truncated := by decide
theorem test_decode_string_rest : decode [0x02#8, 0x02#8, 0x48#8, 0x69#8, 0x00#8] =
    .ok (.writeString [0x48#8, 0x69#8]) [0x00#8] := by decide
theorem test_decode_string_17 : decode ([0x02#8, 0x11#8] ++ codes17) = .ok (.writeString codes17) [] := by decide
theorem test_decode_string_17_short : decode ([0x02#8, 0x11#8] ++ codes16) = .refuse .truncated := by decide
theorem test_decode_array_short : decode [0x03#8, 0x32#8, 0x2E#8, 0x34#8, 0x39#8] = .refuse .truncated := by decide
theorem test_decode_array : decode [0b00000011#8, 0x32#8, 0x2E#8, 0x34#8, 0x39#8, 0x56#8] =
    .ok (.writeCharArray #v[0x32#8, 0x2E#8, 0x34#8, 0x39#8, 0x56#8]) [] := by decide
theorem test_decode_reserved_04 : decode [0b00000100#8] = .refuse .reservedOpcode := by decide
theorem test_decode_reserved_80 : decode [0b10000000#8] = .refuse .reservedOpcode := by decide
theorem test_decode_reserved_FF : decode [0xFF#8, 0x00#8] = .refuse .reservedOpcode := by decide

/-! ### Encoding (R89) -/

theorem test_encode_reset : encode .resetLcd = [0x00#8] := by decide
theorem test_encode_clear : encode .clearDataBits = [0x01#8] := by decide
theorem test_encode_string_empty : encode (.writeString []) = [0x02#8, 0x00#8] := by decide
theorem test_encode_string_17 : encode (.writeString codes17) = [0x02#8, 0x11#8] ++ codes17 := by decide
theorem test_encode_array : encode (.writeCharArray #v[0x32#8, 0x2E#8, 0x34#8, 0x39#8, 0x56#8]) =
    [0x03#8, 0x32#8, 0x2E#8, 0x34#8, 0x39#8, 0x56#8] := by decide

/-! ### The opcode table's numbering -/

theorem test_table_words : decodeTableWord 8 0 = some .resetLcd ∧ decodeTableWord 8 1 = some .clearDataBits ∧
    decodeTableWord 8 2 = some (.writeString []) ∧
    decodeTableWord 8 3 = some (.writeCharArray (Vector.replicate 5 0#8)) ∧ decodeTableWord 8 4 = none := by decide +kernel
theorem test_table_word_operands : decodeTableWord 32 0x69480202 = some (.writeString [0x48#8, 0x69#8]) := by decide +kernel
theorem test_fetch_reset : stateOf (step (State.reset.withFetchWord 8 0)) =
    some { State.reset with op := .resetLcd, busy := true } := by decide +kernel
theorem test_fetch_clear : stateOf (step (State.reset.withFetchWord 8 1)) =
    some { State.reset with op := .clearDataBits, busy := true } := by decide +kernel
theorem test_fetch_string : stateOf (step (State.reset.withFetchWord 8 2)) =
    some { State.reset with op := .writeString, busy := true } := by decide +kernel
theorem test_fetch_array : stateOf (step (State.reset.withFetchWord 8 3)) =
    some { State.reset with op := .writeCharArray, busy := true } := by decide +kernel

/-! ### The assembler (R87, R88, R89) -/

theorem test_asm_plain : asmLine "RESET_LCD   ; 00".toList = .command .resetLcd ∧
    asmLine "CLEAR_DATA_BITS".toList = .command .clearDataBits ∧ asmLine "  ; nothing".toList = .blank := by decide
theorem test_asm_literal : asmLine "WRITE_STRING \"Hi\"".toList = .command (.writeString [0x48#8, 0x69#8]) := by decide
theorem test_asm_bytes : asmLine "WRITE_STRING [0x48, 0x69]".toList = .command (.writeString [0x48#8, 0x69#8]) := by decide
theorem test_asm_empty : asmLine "WRITE_STRING \"\"".toList = .command (.writeString []) ∧
    asmLine "WRITE_STRING []".toList = .command (.writeString []) := by decide
theorem test_asm_array : asmLine "WRITE_CHAR_ARRAY '2', '.', '4', 0x39, 'V'".toList =
    .command (.writeCharArray #v[0x32#8, 0x2E#8, 0x34#8, 0x39#8, 0x56#8]) := by decide
theorem test_asm_blank_optional : asmLine "WRITE_STRING\"H\"".toList = .command (.writeString [0x48#8]) ∧
    asmLine "WRITE_CHAR_ARRAY'2','.','4','9','V'".toList =
      .command (.writeCharArray #v[0x32#8, 0x2E#8, 0x34#8, 0x39#8, 0x56#8]) := by decide +kernel
theorem test_asm_array_of_four : asmLine "WRITE_CHAR_ARRAY '2', '.', '4', '9'".toList = .refuse := by decide
/-- P1 of 95_test_vectors.md. -/
theorem test_asm_program : assemble ["RESET_LCD ; 00".toList, "WRITE_STRING \"Hi\"".toList] =
    some [0x00#8, 0x02#8, 0x02#8, 0x48#8, 0x69#8] := by decide

/-! ### The Bit Encoder and the line map (V-ENC, R132) -/

/-- `Enc(c)` as V-ENC prints it, k = 7 on the left. -/
def encPrinted (c : Byte) : List Bool := (enc c).toList.reverse

theorem test_enc_41 : encPrinted 0x41#8 = [false, true, false, false, false, false, false, true] := by decide
theorem test_enc_3C : encPrinted 0x3C#8 = [false, false, true, true, true, true, false, false] := by decide
theorem test_enc_AA : encPrinted 0xAA#8 = [true, false, true, false, true, false, true, false] := by decide
theorem test_enc_80 : encPrinted 0x80#8 = [true, false, false, false, false, false, false, false] := by decide
theorem test_line_map : bitPositions.map (fun k => (mask k, (dataLine k).val)) =
    [(0x01#8, 8), (0x02#8, 7), (0x04#8, 6), (0x08#8, 5), (0x10#8, 4), (0x20#8, 3), (0x40#8, 2), (0x80#8, 1)] := by decide
theorem test_bus_word : busWordBits ⟨true, false, 0x48#8⟩ = 0x248#10 ∧
    busWordOfBits 0x03C#10 = ⟨false, false, 0x3C#8⟩ := by decide

/-! ### Micro-operations (V-MOP) -/

theorem test_clear : execMicro .clear (withLines (lineVector true 0x69#8 false false true)) =
    { withLines (lineVector true 0x00#8 false false true) with trace := [.data 0x00#8] } := by decide
theorem test_load : execMicro (.load (.const 0x48#8)) (withLines (lineVector true 0x00#8 false false true)) =
    { withLines (lineVector true 0x48#8 false false true) with trace := [.data 0x48#8] } := by decide
theorem test_load_stale_bits : execMicro (.load (.const 0x02#8)) (withLines (lineVector false 0x41#8 false false false)) =
    { withLines (lineVector false 0x43#8 false false false) with trace := [.data 0x43#8] } := by decide
theorem test_set_e_high : execMicro (.set .e true) (withLines (lineVector true 0x48#8 false false true)) =
    { withLines (lineVector true 0x48#8 true false true) with trace := [.set .e true] } := by decide
theorem test_set_e_low : execMicro (.set .e false) (withLines (lineVector true 0x48#8 true false true)) =
    { withLines (lineVector true 0x48#8 false false true) with
        trace := [.set .e false], latched := [⟨true, false, 0x48#8⟩] } := by decide
theorem test_set_e_low_again : execMicro (.set .e false) (withLines (lineVector true 0x48#8 false false true)) =
    { withLines (lineVector true 0x48#8 false false true) with trace := [.set .e false] } := by decide
theorem test_set_rs : execMicro (.set .rs true) (withLines (lineVector true 0x00#8 false false false)) =
    { withLines (lineVector true 0x00#8 false false true) with trace := [.set .rs true] } := by decide
theorem test_delay : execMicro (.delay 10#8) State.reset =
    { State.reset with tmr := 10#8, trace := [.wait 10#8] } := by decide

/-! ### Single steps (V-STEP, V-GUARD, R106, R219) -/

theorem test_issue_string : stateOf (exec (.writeString [0x41#8]) (withLines (lineVector false 0x0F#8 false false false))) =
    some (midA 0#7 0#8 (lineVector false 0x0F#8 false false false)) := by decide
theorem test_issue_string_17_keeps_buf : stateOf (exec (.writeString codes17) State.reset) =
    some { State.reset with op := .writeString, busy := true, len := 17#8 } := by decide
theorem test_issue_array_keeps_len : stateOf (exec (.writeCharArray #v[1#8, 2#8, 3#8, 4#8, 5#8]) { State.reset with len := 9#8 }) =
    some { State.reset with op := .writeCharArray, busy := true, len := 9#8,
                            buf := #v[1#8, 2#8, 3#8, 4#8, 5#8, 0#8, 0#8, 0#8, 0#8, 0#8, 0#8, 0#8, 0#8, 0#8, 0#8, 0#8] } := by decide
theorem test_hold : stateOf (step { midA 3#7 0#8 (lineVector true 0x00#8 false false true) with port := [0x01#8] }) =
    some { midA 4#7 0#8 (lineVector true 0x41#8 false false true) with port := [0x01#8], trace := [.data 0x41#8] } := by decide
theorem test_wait_at_tmr_1 : stateOf (step (midA 6#7 1#8 (lineVector true 0x41#8 true false true))) =
    some { midA 6#7 0#8 (lineVector true 0x41#8 true false true) with now := 1 } := by decide
theorem test_latch_step : stateOf (step (midA 6#7 0#8 (lineVector true 0x41#8 true false true))) =
    some { midA 7#7 0#8 (lineVector true 0x41#8 false false true) with
             trace := [.set .e false], latched := [⟨true, false, 0x41#8⟩] } := by decide
theorem test_done : stateOf (step (midA 10#7 0#8 (lineVector false 0x41#8 false false false))) =
    some { midA 10#7 0#8 (lineVector false 0x41#8 false false false) with busy := false } := by decide
theorem test_tick_overtakes : stateOf (step { midA 10#7 0#8 (lineVector false 0x41#8 false false false) with env := [.tick] }) =
    some { midA 10#7 0#8 (lineVector false 0x41#8 false false false) with now := 1 } := by decide
theorem test_guard : [0#8, 1#8, 15#8, 16#8, 17#8, 18#8, 128#8, 255#8].map transmits =
    [true, true, true, true, false, false, false, false] := by decide
theorem test_refused_frame : step { State.reset with port := [0x07#8, 0x01#8] } =
    .refused (.frame .reservedOpcode) := by rfl
/-- R171, UPC 28 and UPC 4. -/
theorem test_reset_program : (progResetLcd Config.params.cmds)[28]? = some (.set .led false) ∧
    (progResetLcd Config.params.cmds)[4]? = some .clear ∧ (progResetLcd Config.params.cmds).length = 29 := by decide
theorem test_string_programs : (prog .writeString 0#8) = [.set .led true, .set .rs true, .set .rs false, .set .led false] ∧
    (prog .writeString 16#8).length = 100 ∧ prog .writeString 17#8 = [] := by decide
/-- R252: rising and falling edges of E in RESET_LCD. -/
theorem test_reset_edges : enableTimes true 0 (runResetLcd Config.params.cmds).events = [1, 4, 7, 10] ∧
    enableTimes false 0 (runResetLcd Config.params.cmds).events = [2, 5, 8, 11] ∧
    eventTicks (runResetLcd Config.params.cmds).events = 13 := by decide

/-! ### Witnesses: for each statement with hypotheses, a concrete state and operands that meet them together; where a
statement has clauses over ranges, one at a boundary of each -/

/-- RESET_LCD right before its first `SET E 0` (UPC 8 of R171), E high and the DELAY elapsed. -/
def pulseHigh : State := midReset 8#7 0#8 (lineVector true 0x3C#8 true false false)

/-- RESET_LCD right before its first `SET E 1` (UPC 6 of R171). -/
def pulseLow : State := midReset 6#7 0#8 (lineVector true 0x3C#8 false false false)

/-- RESET_LCD during its first settling tick. -/
def settling : State := midReset 1#7 1#8 (lineVector false 0x00#8 false false false)

theorem reset_ready : ReadyEager State.reset := ⟨rfl, rfl, rfl, by decide⟩

theorem reset_inv : Inv State.reset where
  rwLow := by decide
  idle _ := by decide
  upc h := by cases h
  levels h := by cases h
  waiting h := by cases h
  data h := by cases h

theorem pulseHigh_inv : Inv pulseHigh where
  rwLow := by decide
  idle h := by cases h
  upc _ := by decide
  levels _ c := by cases c <;> decide
  waiting _ h := absurd rfl h
  data _ src h := by
    have hd : dataSource (executed pulseHigh) = some (.const 0x3C#8) := by decide
    rw [hd, Option.some.injEq] at h
    subst h
    decide

theorem pulseLow_inv : Inv pulseLow where
  rwLow := by decide
  idle h := by cases h
  upc _ := by decide
  levels _ c := by cases c <;> decide
  waiting _ h := absurd rfl h
  data _ src h := by
    have hd : dataSource (executed pulseLow) = some (.const 0x3C#8) := by decide
    rw [hd, Option.some.injEq] at h
    subst h
    decide

theorem settling_inv : Inv settling where
  rwLow := by decide
  idle h := by cases h
  upc _ := by decide
  levels _ c := by cases c <;> decide
  waiting _ _ := ⟨1#8, by decide, by decide⟩
  data _ src h := by
    have hd : dataSource (executed settling) = none := by decide
    rw [hd] at h
    cases h

theorem witness_DecodeInvertsEncode : wellFormed (.writeString []) = true ∧
    wellFormed (.writeString (List.replicate 255 0x00#8)) = true ∧
    wellFormed (.writeCharArray (Vector.replicate 5 0xFF#8)) = true := by decide +kernel

theorem witness_AcceptedFramesAreEncodings :
    decode [0x02#8, 0x01#8, 0x41#8, 0x00#8] = .ok (.writeString [0x41#8]) [0x00#8] := by decide

theorem witness_FrameLengthFromFirstBytes : (0x00#8).toNat ≤ 1 ∧ (0x01#8).toNat ≤ 1 ∧ (0x03#8).toNat = 3 ∧
    (0x02#8).toNat = 2 ∧ [0xFF#8] = 0xFF#8 :: [] ∧ decode [0x02#8, 0x00#8, 0x01#8] = .ok (.writeString []) [0x01#8] := by
  decide

theorem witness_ReservedOpcodesRefused : 4 ≤ (0x04#8).toNat ∧ 4 ≤ (0xFF#8).toNat ∧ ¬ 4 ≤ (0x03#8).toNat ∧
    (presentFrame [0x04#8] State.reset).busy = false ∧ BlockMoves (presentFrame [0x04#8] State.reset) ∧
    (presentFrame [0x04#8] State.reset).port = 0x04#8 :: [] := ⟨by decide, by decide, by decide, rfl, .inl rfl, rfl⟩

theorem witness_TruncatedFramesRefused : decode [0x02#8, 0x01#8] = .refuse .truncated ∧
    decode [0x03#8, 1#8, 2#8, 3#8, 4#8] = .refuse .truncated := by decide

theorem witness_AssembledCommandsHaveFrames : asmLine "RESET_LCD".toList = .command .resetLcd := by decide

theorem witness_StepRunsDecodedInstruction :
    (presentFrame [0x00#8, 0x01#8] State.reset).busy = false ∧ BlockMoves (presentFrame [0x00#8, 0x01#8] State.reset) ∧
    decode (presentFrame [0x00#8, 0x01#8] State.reset).port = .ok .resetLcd [0x01#8] ∧
    BlockMoves { State.reset with env := [.pass] } := ⟨rfl, .inl rfl, by decide, .inr rfl⟩

theorem witness_IssueLatchesOperands : State.reset.busy = false ∧ pulseHigh.busy = true ∧ codes16.length = 16 ∧
    codes17.length = 17 := by decide

theorem witness_IssueFrame : (∃ t, exec .resetLcd State.reset = .next t) ∧
    (∃ t, exec (.writeCharArray (Vector.replicate 5 0x41#8)) State.reset = .next t) ∧
    (∃ t, exec (.writeString codes16) State.reset = .next t) ∧ (∃ t, exec (.writeString codes17) State.reset = .next t) ∧
    exec .clearDataBits pulseHigh = .next pulseHigh := ⟨⟨_, rfl⟩, ⟨_, rfl⟩, ⟨_, rfl⟩, ⟨_, rfl⟩, rfl⟩

theorem witness_MicroStepExecutesAndAdvances : pulseHigh.busy = true ∧ pulseHigh.tmr = 0#8 ∧ BlockMoves pulseHigh ∧
    nextMicro pulseHigh = some (.set .e false) := ⟨rfl, rfl, .inl rfl, by decide⟩

/-- RESET_LCD right before DONE. -/
def resetEnd : State := midReset 29#7 0#8 (lineVector false 0x0F#8 false false false)

theorem witness_DoneOnlyClearsBusy : resetEnd.busy = true ∧ resetEnd.tmr = 0#8 ∧
    resetEnd.upc.toNat = (currentProg resetEnd).length ∧ BlockMoves resetEnd ∧ NoResetNow resetEnd ∧
    step resetEnd = .next { resetEnd with busy := false } :=
  ⟨rfl, rfl, by decide, .inl rfl, by simp [NoResetNow, resetEnd, midReset, State.reset], rfl⟩

theorem witness_TickAlwaysEnabled :
    ({ settling with env := [.tick] } : State).env = .tick :: [] ∧ ({ State.reset with env := [.tick] } : State).env = .tick :: [] :=
  ⟨rfl, rfl⟩

theorem witness_WaitingAllowsOnlyTicks : settling.busy = true ∧ settling.tmr ≠ 0#8 ∧ NoResetNow settling ∧
    step settling = .next (tick settling) :=
  ⟨rfl, by decide, by simp [NoResetNow, settling, midReset, State.reset], rfl⟩

theorem witness_BusyHoldsTheHost : settling.busy = true ∧ step settling = .next (tick settling) ∧ NoResetNow settling :=
  ⟨rfl, rfl, by simp [NoResetNow, settling, midReset, State.reset]⟩

theorem witness_OnlyMicroOperationsWriteLines : step pulseHigh = .next (micro (.set .e false) pulseHigh) ∧
    NoResetNow pulseHigh ∧ (micro (.set .e false) pulseHigh).lines ≠ pulseHigh.lines :=
  ⟨rfl, by simp [NoResetNow, pulseHigh, midReset, State.reset], by decide⟩

theorem witness_IdleOnlyAdvancesNow :
    State.reset.busy = false ∧ State.reset.tmr = 0#8 ∧ State.reset.port = [] ∧ State.reset.env = [] := by decide

theorem witness_EndedRunStaysEnded : runOver State.reset = true ∧ NoResetNow State.reset ∧
    step State.reset = .next (tick State.reset) ∧ runOver settling = false :=
  ⟨by decide, by simp [NoResetNow, State.reset], rfl, by decide⟩

theorem witness_HardwareResetGivesResetState :
    ({ pulseHigh with env := [.hardwareReset] } : State).env = .hardwareReset :: [] ∧ ctrl pulseHigh.lines .e = true ∧
    ({ pulseLow with env := [.hardwareReset] } : State).env = .hardwareReset :: [] ∧ ctrl pulseLow.lines .e = false :=
  ⟨rfl, by decide, rfl, by decide⟩

theorem witness_LoadOnlySetsDataLines : ((.const 0xFF#8 : Src) = .const 0xFF#8) ∧
    ∃ i, (.buf 0 : Src) = .buf i ∧ (midA 3#7 0#8 (lineVector true 0x00#8 false false true)).buf[i] = 0x41#8 :=
  ⟨rfl, 0, rfl, by decide⟩

theorem witness_SetWritesOneLine : pulseHigh.lines[9] = true ∧ ¬ pulseLow.lines[9] = true ∧ (0 : Fin 12) ≠ ctrlIndex .e := by
  decide

/-- WRITE_STRING "A" right before its `DELAY 10`. -/
def beforeDelay : State := midA 5#7 0#8 (lineVector true 0x41#8 true false true)

theorem witness_DelayHoldsTheLines : beforeDelay.busy = true ∧ beforeDelay.tmr = 0#8 ∧ beforeDelay.env = [] ∧
    nextMicro beforeDelay = some (.delay 10#8) ∧ 10 ≤ (10#8).toNat ∧ 0 ≤ (10#8).toNat := by decide

theorem witness_DelayIsALowerBound : pulseHigh.busy = true ∧ NoReset pulseHigh ∧
    runSteps 1 pulseHigh = .next (micro (.set .e false) pulseHigh) ∧ (micro (.set .e false) pulseHigh).upc ≠ pulseHigh.upc ∧
    resetEnd.busy = true ∧ NoReset resetEnd ∧ runSteps 1 resetEnd = .next (done resetEnd) ∧ (done resetEnd).busy = false :=
  ⟨rfl, by simp [NoReset, pulseHigh, midReset, State.reset], rfl, by decide, rfl,
    by simp [NoReset, resetEnd, midReset, State.reset], rfl, rfl⟩

theorem witness_LatchedExactlyAtFallingEdges : step pulseHigh = .next (micro (.set .e false) pulseHigh) ∧
    NoResetNow pulseHigh ∧ pulseHigh.lines[9] = true ∧ (micro (.set .e false) pulseHigh).lines[9] = false :=
  ⟨rfl, by simp [NoResetNow, pulseHigh, midReset, State.reset], by decide, by decide⟩

theorem witness_EncoderSpellsTheCode : (enc 0x41#8)[(6 : Fin 8)] = true ∧ enc 0x41#8 = enc 0x41#8 := by decide

theorem witness_MicroProgramCounts : (16#8).toNat ≤ 16 ∧ 16 < (17#8).toNat ∧ (0#8).toNat ≤ 16 ∧ 16 < (255#8).toNat := by
  decide

theorem witness_EveryLoadFollowsClear : (prog .resetLcd 0#8)[5]? = some (.load (.const 0x3C#8)) ∧
    (prog .writeString 1#8)[3]? = some (.load (.buf 0)) := by decide

theorem witness_LoadsReadOnlyLatchedEntries : .load (.buf 15) ∈ prog .writeString 16#8 ∧
    .load (.buf 4) ∈ prog .writeCharArray 0#8 := by decide

theorem witness_WhichCommandWritesWhichLine : (0#8).toNat ≤ 16 ∧ (16#8).toNat ≤ 16 ∧ 16 < (17#8).toNat := by decide

theorem witness_ResetLcdCompletes :
    State.reset.busy = false ∧ State.reset.tmr = 0#8 ∧ State.reset.env = [] ∧
    (withLines (lineVector false 0x69#8 false false false)).busy = false := by decide

theorem witness_ClearDataBitsCompletes :
    (withLines (lineVector true 0xFF#8 true true true)).busy = false ∧
    (withLines (lineVector true 0xFF#8 true true true)).tmr = 0#8 ∧
    (withLines (lineVector true 0xFF#8 true true true)).env = [] := by decide

theorem witness_WriteStringCompletes : ReadyEager State.reset ∧ ([] : List Byte).length ≤ 16 ∧ codes16.length ≤ 16 ∧
    16 < codes17.length := ⟨reset_ready, by decide, by decide, by decide⟩

theorem witness_WriteCharArrayCompletes : ReadyEager (withLines (lineVector false 0x0F#8 false false false)) :=
  ⟨rfl, rfl, rfl, by decide⟩

theorem witness_EagerRunEqualsBigStep : ReadyEager State.reset ∧
    exec .resetLcd State.reset = .next { State.reset with busy := true } := ⟨reset_ready, rfl⟩

/-- CLEAR_DATA_BITS issued from reset. -/
def clearIssued : State := { State.reset with op := .clearDataBits, busy := true }

theorem witness_EveryScheduleGivesRun : ReadyEager State.reset ∧ State.reset.port = [] ∧
    EnvMove.hardwareReset ∉ [EnvMove.tick] ∧ exec .clearDataBits State.reset = .next clearIssued ∧
    runSteps 3 { clearIssued with env := [.tick] } = .next (done (micro .clear (tick clearIssued))) ∧
    (done (micro .clear (tick clearIssued))).busy = false :=
  ⟨reset_ready, rfl, by decide, rfl, rfl, rfl⟩

theorem witness_EveryCommandTerminates : ReadyEager State.reset ∧ State.reset.port = [] ∧
    EnvMove.hardwareReset ∉ [EnvMove.tick, EnvMove.pass] ∧ exec .clearDataBits State.reset = .next clearIssued :=
  ⟨reset_ready, rfl, by decide, rfl⟩

theorem witness_ResetLcdIsIdempotent : State.reset.busy = false ∧ State.reset.tmr = 0#8 ∧ State.reset.env = [] := by decide

theorem witness_CharArrayEqualsString : ReadyEager State.reset := reset_ready

theorem witness_ResetLcdForAnyCommandBytes : pulseHigh.tmr = 0#8 := by decide

theorem witness_CharacterLatchInstants : 15 < codes16.length ∧ 0 < codes16.length ∧ ReadyEager State.reset ∧
    codes16.length ≤ 16 := ⟨by decide, by decide, reset_ready, by decide⟩

theorem witness_StepKeepsInvariant : Inv pulseHigh ∧ step pulseHigh = .next (micro (.set .e false) pulseHigh) ∧
    Inv settling ∧ step settling = .next (tick settling) ∧ Inv State.reset ∧ step State.reset = .next (tick State.reset) :=
  ⟨pulseHigh_inv, rfl, settling_inv, rfl, reset_inv, rfl⟩

/-- RESET_LCD right before its first CLEAR, LOAD pair (UPC 4 of R171): the step changes DATA when a code was left. -/
def beforeClear : State := midReset 4#7 0#8 (lineVector true 0x69#8 false false false)

theorem beforeClear_inv : Inv beforeClear where
  rwLow := by decide
  idle h := by cases h
  upc _ := by decide
  levels _ c := by cases c <;> decide
  waiting _ h := absurd rfl h
  data _ src h := by
    have hd : dataSource (executed beforeClear) = none := by decide
    rw [hd] at h
    cases h

theorem witness_ReachableStateFacts : Inv beforeClear ∧ step beforeClear = .next (micro .clear beforeClear) ∧
    NoResetNow beforeClear ∧ readData (micro .clear beforeClear).lines ≠ readData beforeClear.lines ∧
    beforeClear.busy = true ∧ nextMicro beforeClear = some .clear ∧ beforeClear.lines[0] = true ∧
    Inv State.reset ∧ State.reset.busy = false :=
  ⟨beforeClear_inv, rfl, by simp [NoResetNow, beforeClear, midReset, State.reset], by decide, rfl, by decide, by decide,
    reset_inv, rfl⟩

theorem witness_EnableEdgesAreFramed : Inv pulseLow ∧ step pulseLow = .next (micro (.set .e true) pulseLow) ∧
    NoResetNow pulseLow ∧ pulseLow.lines[9] = false ∧ (micro (.set .e true) pulseLow).lines[9] = true ∧
    Inv pulseHigh ∧ step pulseHigh = .next (micro (.set .e false) pulseHigh) ∧ NoResetNow pulseHigh ∧
    pulseHigh.lines[9] = true ∧ (micro (.set .e false) pulseHigh).lines[9] = false :=
  ⟨pulseLow_inv, rfl, by simp [NoResetNow, pulseLow, midReset, State.reset], by decide, by decide, pulseHigh_inv, rfl,
    by simp [NoResetNow, pulseHigh, midReset, State.reset], by decide, by decide⟩

theorem witness_LinesStableWhileEnableHigh : Inv pulseHigh ∧ step pulseHigh = .next (micro (.set .e false) pulseHigh) ∧
    NoResetNow pulseHigh ∧ pulseHigh.lines[9] = true ∧ (0 : Fin 12) ≠ 9 :=
  ⟨pulseHigh_inv, rfl, by simp [NoResetNow, pulseHigh, midReset, State.reset], by decide, by decide⟩

/-- `pulseLow` with a hardware reset to come: E is low, so the reset latches nothing. -/
def resetComing : State := { pulseLow with env := [.hardwareReset] }

theorem witness_SentWordsFollowTheProtocol : Inv pulseHigh ∧
    step pulseHigh = .next (micro (.set .e false) pulseHigh) ∧ NoResetNow pulseHigh ∧
    (∀ w ∈ pulseHigh.latched, ProtocolWord w) ∧ Inv resetComing ∧
    step resetComing = .next (hardwareReset { resetComing with env := [] }) ∧ ctrl resetComing.lines .e = false ∧
    (∀ w ∈ resetComing.latched, ProtocolWord w) ∧ (∀ w ∈ [(⟨true, false, 0x41#8⟩ : BusWord)], ProtocolWord w) :=
  ⟨pulseHigh_inv, rfl, by simp [NoResetNow, pulseHigh, midReset, State.reset],
    by simp [pulseHigh, midReset, State.reset],
    ⟨pulseLow_inv.rwLow, pulseLow_inv.idle, pulseLow_inv.upc, pulseLow_inv.levels, pulseLow_inv.waiting,
      pulseLow_inv.data⟩, rfl, by decide, by simp [resetComing, pulseLow, midReset, State.reset],
    by simp [ProtocolWord]⟩

theorem witness_LedDuringResetLcd : Inv beforeClear ∧ beforeClear.busy = true ∧ beforeClear.op = .resetLcd ∧
    beforeClear.upc.toNat = 4 ∧ Inv settling ∧ settling.busy = true ∧ settling.op = .resetLcd ∧ settling.upc.toNat < 4 :=
  ⟨beforeClear_inv, rfl, rfl, by decide, settling_inv, rfl, rfl, by decide⟩

theorem witness_UnreadStateIsUnobservable : State.reset.busy = false ∧
    SameObserved State.reset { State.reset with op := .writeString, len := 7#8 } ∧
    step State.reset = .next (tick State.reset) :=
  ⟨rfl, ⟨rfl, rfl, rfl, rfl, rfl, rfl, rfl, rfl, rfl, rfl, (by intro h; cases h), (by intro h; cases h)⟩, rfl⟩

end Sys2Proof.Tests
end

section
/-! SUPPORT. What a micro-program holds: its DELAYs, its SETs line by line, its data writes and its LOADs, each list
of them read off the cycles it is built from (R24, R101, R120, R151). -/

namespace Sys2Proof.Machine

theorem length_bufIndices {n : Nat} (h : n ≤ 16) : (bufIndices n).length = n := by
  simp [bufIndices, h]

theorem mem_bufIndices {i : Fin Config.bufDepth} {n : Nat} : i ∈ bufIndices n ↔ i.val < n := by
  rw [bufIndices, List.mem_take_iff_getElem]
  simp only [List.getElem_finRange, List.length_finRange]
  constructor
  · rintro ⟨j, hj, rfl⟩
    exact (Nat.lt_min.1 hj).1
  · exact fun h => ⟨i.val, Nat.lt_min.2 ⟨h, i.isLt⟩, rfl⟩

theorem delaysOf_append (a b : List MicroOp) : delaysOf (a ++ b) = delaysOf a ++ delaysOf b := List.filterMap_append

theorem delaysOf_flatMap {α : Type} (f : α → List MicroOp) (l : List α) :
    delaysOf (l.flatMap f) = l.flatMap fun x => delaysOf (f x) := List.filterMap_flatMap

theorem levelsWritten_append (c : CtrlLine) (a b : List MicroOp) :
    levelsWritten c (a ++ b) = levelsWritten c a ++ levelsWritten c b := List.filterMap_append

theorem levelsWritten_flatMap {α : Type} (c : CtrlLine) (f : α → List MicroOp) (l : List α) :
    levelsWritten c (l.flatMap f) = l.flatMap fun x => levelsWritten c (f x) := List.filterMap_flatMap

theorem dataWrites_append (a b : List MicroOp) : dataWrites (a ++ b) = dataWrites a ++ dataWrites b :=
  List.filter_append ..

theorem dataWrites_flatMap {α : Type} (f : α → List MicroOp) (l : List α) :
    dataWrites (l.flatMap f) = l.flatMap fun x => dataWrites (f x) := List.filter_flatMap

/-- A CYCLE has six micro-operations (R112). -/
theorem length_cycle (src : Src) (h l : BitVec Config.tmrWidth) : (cycle src h l).length = 6 := rfl

theorem delaysOf_cycle (src : Src) (h l : BitVec Config.tmrWidth) : delaysOf (cycle src h l) = [h, l] := rfl

theorem dataWrites_cycle (src : Src) (h l : BitVec Config.tmrWidth) :
    dataWrites (cycle src h l) = [.clear, .load src] := rfl

/-- A CYCLE writes only E among the control lines (R112). -/
theorem levelsWritten_cycle (c : CtrlLine) (src : Src) (h l : BitVec Config.tmrWidth) :
    levelsWritten c (cycle src h l) = if c = .e then [true, false] else [] := by
  cases c <;> rfl

theorem length_characterProgram {n : Nat} (h : n ≤ 16) : (characterProgram n).length = 4 + 6 * n := by
  simp [characterProgram, characterCycle, List.length_flatMap, length_cycle, length_bufIndices h]
  omega

theorem delaysOf_characterProgram (n : Nat) :
    delaysOf (characterProgram n) = (bufIndices n).flatMap fun _ => [10#8, 20#8] := by
  rw [characterProgram, delaysOf_append, delaysOf_append, delaysOf_flatMap]
  exact List.append_nil _

theorem delays_sum_characterProgram {n : Nat} (h : n ≤ 16) :
    ((delaysOf (characterProgram n)).map BitVec.toNat).sum = 30 * n := by
  rw [delaysOf_characterProgram, List.map_flatMap, List.flatMap, List.sum_flatten, List.map_map]
  show ((bufIndices n).map fun _ => 30).sum = 30 * n
  simp [length_bufIndices h, Nat.mul_comm]

theorem levelsWritten_characterProgram (c : CtrlLine) {n : Nat} (h : n ≤ 16) :
    levelsWritten c (characterProgram n) = match c with
      | .led => [true, false]
      | .e   => (List.replicate n [true, false]).flatten
      | .rw  => []
      | .rs  => [true, false] := by
  rw [characterProgram, levelsWritten_append, levelsWritten_append, levelsWritten_flatMap]
  have hcycles : ((bufIndices n).flatMap fun i => levelsWritten c (characterCycle i)) =
      if c = .e then (List.replicate n [true, false]).flatten else [] := by
    simp only [characterCycle, levelsWritten_cycle]
    split <;> simp [List.flatMap, length_bufIndices h]
  rw [hcycles]
  cases c
  case e => exact List.append_nil _
  all_goals rfl

theorem dataWrites_characterProgram (n : Nat) :
    dataWrites (characterProgram n) = (bufIndices n).flatMap fun i => [.clear, .load (.buf i)] := by
  rw [characterProgram, dataWrites_append, dataWrites_append, dataWrites_flatMap]
  exact List.append_nil _

theorem load_mem_characterProgram {i : Fin Config.bufDepth} {n : Nat} :
    .load (.buf i) ∈ characterProgram n ↔ i.val < n := by
  simp [characterProgram, characterCycle, cycle, pulse, mem_bufIndices]

theorem prog_resetLcd (len : BitVec Config.lenWidth) : prog .resetLcd len = progResetLcd Config.params.cmds := rfl

theorem prog_writeCharArray (len : BitVec Config.lenWidth) : prog .writeCharArray len = characterProgram 5 := rfl

/-- Settles O28, by the lengths and delays of the cycles each program is built from. -/
theorem microProgramCounts : Obligations.MicroProgramCounts := by
  refine ⟨fun _ => ?_, fun _ => ⟨rfl, rfl⟩, fun len h => ?_, fun len h => prog_writeString_dropped h,
    fun _ => ?_, fun o len => ?_⟩
  · rw [prog_resetLcd]
    decide
  · rw [prog_writeString_transmits h]
    exact ⟨length_characterProgram h, delays_sum_characterProgram h⟩
  · rw [prog_writeCharArray]
    exact ⟨length_characterProgram (by decide), delays_sum_characterProgram (by decide)⟩
  · refine prog_cases (fun _ p => p.length ≤ 100) (by decide) (by decide) (by decide) (fun n => ?_) (by decide) o len
    rw [length_characterProgram (by omega)]
    omega

/-- Settles O30: the only programs with a LOAD of a buffer entry are character programs. -/
theorem loadsReadOnlyLatchedEntries : Obligations.LoadsReadOnlyLatchedEntries := by
  intro o len i h
  cases o with
  | resetLcd => simp [prog_resetLcd, progResetLcd, initBytes_eq, commandCycle, cycle, pulse] at h
  | clearDataBits => simp [prog, progClearDataBits] at h
  | writeString =>
    by_cases hl : len.toNat ≤ 16
    · rw [prog_writeString_transmits hl, load_mem_characterProgram] at h
      exact .inl ⟨rfl, h, hl⟩
    · rw [prog_writeString_dropped (by omega)] at h
      exact absurd h List.not_mem_nil
  | writeCharArray => exact .inr ⟨rfl, load_mem_characterProgram.1 h⟩

/-- Settles O31: RESET_LCD's one list is evaluated, the character programs are read off their cycles. -/
theorem whichCommandWritesWhichLine : Obligations.WhichCommandWritesWhichLine := by
  refine ⟨fun _ => ?_, fun _ => ⟨fun c => by cases c <;> rfl, rfl⟩, fun len h => ?_, fun len h => ?_, fun _ => ?_⟩
  · rw [prog_resetLcd]
    decide
  · rw [prog_writeString_transmits h]
    exact ⟨levelsWritten_characterProgram .led h, levelsWritten_characterProgram .e h,
      levelsWritten_characterProgram .rw h, levelsWritten_characterProgram .rs h, dataWrites_characterProgram _⟩
  · rw [prog_writeString_dropped h]
    exact ⟨fun _ => rfl, rfl⟩
  · have h : 5 ≤ 16 := by decide
    rw [prog_writeCharArray]
    exact ⟨levelsWritten_characterProgram .led h, levelsWritten_characterProgram .e h,
      levelsWritten_characterProgram .rw h, levelsWritten_characterProgram .rs h, dataWrites_characterProgram _⟩

end Sys2Proof.Machine
end

section
/-! SUPPORT. Micro-programs by position: what stands right before and after a micro-operation in `Prog(OP, LEN)`, and
which level E has there (R65, R101, R111, R112). -/

namespace Sys2Proof.Machine

/-- The twenty micro-programs (R101) with the operation each belongs to. -/
def everyProg : List (Op × List MicroOp) :=
  [(.resetLcd, progResetLcd Config.params.cmds), (.clearDataBits, [.clear]), (.writeString, []),
    (.writeCharArray, characterProgram 5)] ++
  (List.finRange 17).map fun n => (.writeString, characterProgram n.val)

theorem prog_mem_everyProg (o : Op) (len : BitVec Config.lenWidth) : (o, prog o len) ∈ everyProg := by
  refine prog_cases (fun o p => (o, p) ∈ everyProg) ?_ ?_ ?_ (fun n => ?_) ?_ o len
  case refine_4 => exact List.mem_append_right _ (List.mem_map.2 ⟨n, List.mem_finRange n, rfl⟩)
  all_goals simp [everyProg]

/-- What a check of the twenty lists finds holds of `Prog(OP, LEN)`. -/
theorem prog_of_everyProg {P : Op → List MicroOp → Prop} (h : ∀ q ∈ everyProg, P q.1 q.2) (o : Op)
    (len : BitVec Config.lenWidth) : P o (prog o len) :=
  h _ (prog_mem_everyProg o len)

/-- Is this micro-operation a LOAD? -/
def isLoad : MicroOp → Bool
  | .set _ _ => false
  | .clear   => false
  | .load _  => true
  | .delay _ => false

theorem any_isLoad_iff {x : Option MicroOp} : x.any isLoad = true ↔ ∃ src, x = some (.load src) := by
  cases x with
  | none => simp
  | some m => cases m <;> simp [isLoad]

/-- What the rules ask of the place of the micro-operation at index `k`: E is low at each CLEAR and LOAD (R112), each
LOAD stands right after a CLEAR (R65), `SET E 1` right after the two (R112), and `SET E 0` between the DELAYs of a
matching high and low time (R111). -/
def framedAt (p : List MicroOp) (k : Nat) : Bool :=
  match p[k]? with
  | some .clear          => levelAfter .e false (p.take k) == false
  | some (.load _)       => levelAfter .e false (p.take k) == false && decide (1 ≤ k) && p[k - 1]? == some .clear
  | some (.set .e true)  => decide (2 ≤ k) && p[k - 2]? == some .clear && p[k - 1]?.any isLoad
  | some (.set .e false) => decide (1 ≤ k) &&
      ((p[k - 1]? == some (.delay 1#8) && p[k + 1]? == some (.delay 2#8)) ||
        (p[k - 1]? == some (.delay 10#8) && p[k + 1]? == some (.delay 20#8)))
  | _                    => true

theorem prog_framedAt (o : Op) (len : BitVec Config.lenWidth) (k : Nat) : framedAt (prog o len) k = true := by
  by_cases hk : k < (prog o len).length
  · exact prog_of_everyProg (P := fun _ p => ∀ k < p.length, framedAt p k = true) (by decide +kernel) o len k hk
  · simp [framedAt, List.getElem?_eq_none (Nat.le_of_not_lt hk)]

section Places

variable {o : Op} {len : BitVec Config.lenWidth} {k : Nat}

/-- Each LOAD stands right after a CLEAR (R65). -/
theorem prog_load_after_clear {src : Src} (h : (prog o len)[k]? = some (.load src)) :
    1 ≤ k ∧ (prog o len)[k - 1]? = some .clear := by
  have hf := prog_framedAt o len k
  simp only [framedAt, h, Bool.and_eq_true, decide_eq_true_eq, beq_iff_eq] at hf
  obtain ⟨⟨-, h1⟩, hclear⟩ := hf
  exact ⟨h1, hclear⟩

/-- E is low at each CLEAR and each LOAD (R112). -/
theorem prog_data_write_enable_low
    (h : (prog o len)[k]? = some .clear ∨ ∃ src, (prog o len)[k]? = some (.load src)) :
    levelAfter .e false ((prog o len).take k) = false := by
  have hf := prog_framedAt o len k
  obtain h | ⟨src, h⟩ := h <;> simp only [framedAt, h, Bool.and_eq_true, beq_iff_eq] at hf
  · exact hf
  · obtain ⟨⟨hlow, -⟩, -⟩ := hf
    exact hlow

/-- `SET E 1` stands right after a CLEAR and a LOAD (R112). -/
theorem prog_enable_rise (h : (prog o len)[k]? = some (.set .e true)) :
    2 ≤ k ∧ (prog o len)[k - 2]? = some .clear ∧ ∃ src, (prog o len)[k - 1]? = some (.load src) := by
  have hf := prog_framedAt o len k
  simpa only [framedAt, h, Bool.and_eq_true, decide_eq_true_eq, beq_iff_eq, any_isLoad_iff, and_assoc] using hf

/-- `SET E 0` stands between the DELAYs of a matching high and low time (R111). -/
theorem prog_enable_fall (h : (prog o len)[k]? = some (.set .e false)) :
    1 ≤ k ∧ ∃ hi lo, (prog o len)[k - 1]? = some (.delay hi) ∧ (prog o len)[k + 1]? = some (.delay lo) ∧
      ((hi = 1#8 ∧ lo = 2#8) ∨ (hi = 10#8 ∧ lo = 20#8)) := by
  have hf := prog_framedAt o len k
  simp only [framedAt, h, Bool.and_eq_true, Bool.or_eq_true, decide_eq_true_eq, beq_iff_eq] at hf
  obtain ⟨h1, ⟨hhi, hlo⟩ | ⟨hhi, hlo⟩⟩ := hf
  · exact ⟨h1, _, _, hhi, hlo, .inl ⟨rfl, rfl⟩⟩
  · exact ⟨h1, _, _, hhi, hlo, .inr ⟨rfl, rfl⟩⟩

end Places

/-- No micro-program raises RW (R34 item 1). -/
theorem prog_never_sets_rw (o : Op) (len : BitVec Config.lenWidth) : .set .rw true ∉ prog o len :=
  prog_of_everyProg (P := fun _ p => .set .rw true ∉ p) (by decide +kernel) o len

/-- A whole micro-program leaves each control line low that was low before it (R34 item 2). -/
theorem prog_ends_low (o : Op) (len : BitVec Config.lenWidth) (c : CtrlLine) :
    levelAfter c false (prog o len) = false := by
  refine prog_of_everyProg (P := fun _ p => levelAfter c false p = false) ?_ o len
  cases c <;> decide +kernel

/-- No DELAY is longer than T_CHR_LOW (R30, R120). -/
theorem prog_delay_le {o : Op} {len : BitVec Config.lenWidth} {n : BitVec Config.tmrWidth}
    (h : .delay n ∈ prog o len) : n.toNat ≤ 20 := by
  have key : ∀ n ∈ delaysOf (prog o len), n.toNat ≤ 20 := by
    refine prog_cases (fun _ p => ∀ n ∈ delaysOf p, n.toNat ≤ 20) (by decide) (by decide) (by decide)
      (fun k => ?_) (by decide) o len
    rw [delaysOf_characterProgram]
    intro n hn
    obtain ⟨_, -, hn⟩ := List.mem_flatMap.1 hn
    exact (by decide : ∀ n ∈ [10#8, 20#8], BitVec.toNat n ≤ 20) n hn
  exact key n (List.mem_filterMap.2 ⟨_, h, rfl⟩)

end Sys2Proof.Machine
end

section
/-! SUPPORT. What a step that is no hardware reset does to the lines, DATA and LATCHED (R22, R38). -/

namespace Sys2Proof.Machine

/-- A step that is no hardware reset leaves the lines and LATCHED alone, or is a MICRO (R22, R103). -/
theorem step_quiet_or_micro {s t : State} (h : step s = .next t) (hr : NoResetNow s) :
    (t.lines = s.lines ∧ t.latched = s.latched) ∨
    (s.busy = true ∧ s.tmr = 0#8 ∧ BlockMoves s ∧ ∃ m, nextMicro s = some m ∧
      t = micro m { s with env := s.env.tail }) := by
  obtain ⟨rest, he, -⟩ | ⟨rest, -, rfl⟩ | ⟨hm, hb, rfl⟩ | ⟨-, -, -, rfl⟩ | ⟨-, -, i, rest, -, rfl⟩ := step_cases h
  · exact absurd (by rw [he]; rfl) hr
  · exact .inl ⟨rfl, rfl⟩
  · obtain ⟨-, hs⟩ | ⟨ht, m, hn, hs⟩ | ⟨-, -, hs⟩ | ⟨-, -, hs⟩ := sequencerStep_cases { s with env := s.env.tail }
    · exact .inl (by rw [hs]; exact ⟨rfl, rfl⟩)
    · exact .inr ⟨hb, ht, hm, m, hn, hs⟩
    · exact .inl (by rw [hs]; exact ⟨rfl, rfl⟩)
    · exact .inl (by rw [hs]; exact ⟨rfl, rfl⟩)
  · exact .inl ⟨rfl, rfl⟩
  · exact .inl ⟨rfl, rfl⟩

/-- DATA after a micro-operation: only CLEAR and LOAD write it (R107, R108). -/
theorem readData_micro (m : MicroOp) (s : State) :
    readData (micro m s).lines = (match m with
      | .set _ _  => readData s.lines
      | .clear    => 0x00#8
      | .load src => readData s.lines ||| srcValue s.buf src
      | .delay _  => readData s.lines) := by
  cases m <;> simp [execMicro]

/-- TMR after a micro-operation: only DELAY writes it (R109). -/
theorem tmr_micro (m : MicroOp) (s : State) :
    (micro m s).tmr = (match m with
      | .set _ _ => s.tmr
      | .clear   => s.tmr
      | .load _  => s.tmr
      | .delay n => n) := by
  cases m <;> rfl

/-- A micro-operation that makes E rise is `SET E 1` (R113). -/
theorem micro_enable_rise {m : MicroOp} {s : State} (h0 : ctrl s.lines .e = false)
    (h1 : ctrl (micro m s).lines .e = true) : m = .set .e true := by
  rw [ctrl_micro] at h1
  cases m with
  | set c b => cases c <;> simp_all
  | clear | load | delay => simp_all

/-- A micro-operation that makes E fall is `SET E 0` (R113). -/
theorem micro_enable_fall {m : MicroOp} {s : State} (h0 : ctrl s.lines .e = true)
    (h1 : ctrl (micro m s).lines .e = false) : m = .set .e false := by
  rw [ctrl_micro] at h1
  cases m with
  | set c b => cases c <;> simp_all
  | clear | load | delay => simp_all

/-- A micro-operation appends the word on the lines to LATCHED exactly when it makes E fall (R38). -/
theorem micro_latched_eq (m : MicroOp) (s : State) : (micro m s).latched = s.latched ++
    (if ctrl s.lines .e = true ∧ ctrl (micro m s).lines .e = false then [busWord s.lines] else []) := by
  rw [ctrl_micro]
  cases m with
  | set c b =>
    refine congrArg (s.latched ++ ·) (if_congr ?_ rfl rfl)
    by_cases hc : c = .e <;> simp [hc, and_comm]
  | clear | load | delay => simp [execMicro]

/-- Settles O17: every other step is one `step_quiet_or_micro` calls quiet, and so is a DELAY. -/
theorem onlyMicroOperationsWriteLines : Obligations.OnlyMicroOperationsWriteLines := by
  intro s t h hr hne
  obtain ⟨hl, -⟩ | ⟨hb, ht, hm, m, hn, rfl⟩ := step_quiet_or_micro h hr
  · exact absurd hl hne
  · refine ⟨hb, ht, hm, m, hn, ?_⟩
    rintro n rfl
    exact hne rfl

/-- Settles O25: a quiet step moves neither E nor LATCHED, and a MICRO is `micro_latched_eq`. -/
theorem latchedExactlyAtFallingEdges : Obligations.LatchedExactlyAtFallingEdges := by
  intro s t h hr
  obtain ⟨hl, hw⟩ | ⟨-, -, -, m, -, rfl⟩ := step_quiet_or_micro h hr
  · rw [hw, hl, if_neg (by simp), List.append_nil]
  · exact micro_latched_eq m { s with env := s.env.tail }

/-- Settles O10: a held command changes nothing, an issued one only what `issued` lists. -/
theorem issueFrame : Obligations.IssueFrame := by
  intro i s t h
  obtain ⟨-, rfl⟩ | ⟨-, rfl⟩ := exec_cases h
  · exact ⟨rfl, rfl, rfl, rfl, rfl, rfl, rfl, rfl, fun _ => ⟨rfl, rfl⟩, fun _ _ => ⟨rfl, fun _ _ => rfl⟩,
      fun _ _ _ _ => rfl⟩
  · refine ⟨rfl, rfl, rfl, rfl, rfl, rfl, rfl, rfl, ?_, ?_, ?_⟩
    · rintro (rfl | rfl) <;> exact ⟨rfl, rfl⟩
    · rintro a rfl
      exact ⟨rfl, fun j hj => (arrayBuf_getElem a s.buf j).trans (dif_neg (by omega))⟩
    · rintro cs rfl j hj
      refine (stringBuf_getElem cs s.buf j).trans ?_
      split
      · rw [List.getElem?_eq_none (by omega)]
        rfl
      · rfl

end Sys2Proof.Machine
end

section
/-! SUPPORT. The invariant of R34, step by step. -/

namespace Sys2Proof.Machine

/-- An idle block with every control line low and no timer running meets the invariant (R34 items 1 and 2). -/
theorem Inv.of_idle {s : State} (hb : s.busy = false) (hc : ∀ c, ctrl s.lines c = false) (ht : s.tmr = 0#8) :
    Inv s where
  rwLow := hc .rw
  idle _ := ⟨hc .e, hc .led, hc .rs, ht⟩
  upc h := absurd (hb.symm.trans h) Bool.false_ne_true
  levels h := absurd (hb.symm.trans h) Bool.false_ne_true
  waiting h := absurd (hb.symm.trans h) Bool.false_ne_true
  data h := absurd (hb.symm.trans h) Bool.false_ne_true

theorem inv_reset : Inv State.reset := .of_idle rfl reset_ctrl rfl

theorem inv_hardwareReset (s : State) : Inv (hardwareReset s) := .of_idle rfl reset_ctrl rfl

/-- The invariant speaks of no pending input. -/
theorem Inv.withInputs {s : State} (h : Inv s) (port : List Byte) (env : List EnvMove) :
    Inv { s with port := port, env := env } :=
  ⟨h.rwLow, h.idle, h.upc, h.levels, h.waiting, h.data⟩

/-- TICK only counts TMR down (R105). -/
theorem Inv.tick {s : State} (h : Inv s) : Inv (tick s) where
  rwLow := h.rwLow
  idle hb := by
    obtain ⟨he, hled, hrs, ht⟩ := h.idle hb
    exact ⟨he, hled, hrs, by rw [tick_tmr, if_pos ht, ht]⟩
  upc := h.upc
  levels := h.levels
  waiting hb ht := by
    have h0 : s.tmr ≠ 0#8 := fun h0 => ht (by rw [tick_tmr, if_pos h0, h0])
    obtain ⟨n, hl, hle⟩ := h.waiting hb h0
    refine ⟨n, hl, ?_⟩
    rw [tick_tmr, if_neg h0, (tmr_pred _ h0).1]
    omega
  data := h.data

/-- At the end of a micro-program every control line is low again (R34 item 2). -/
theorem Inv.done {s : State} (h : Inv s) (hb : s.busy = true) (ht : s.tmr = 0#8)
    (hu : s.upc.toNat = (currentProg s).length) : Inv (done s) := by
  refine .of_idle rfl (fun c => ?_) ht
  rw [done_lines, h.levels hb, executed, hu, List.take_length]
  exact prog_ends_low _ _ c

/-- ISSUE finds every control line low, and nothing has executed yet (R102). -/
theorem Inv.issued {s : State} (h : Inv s) (hb : s.busy = false) (i : Instr) : Inv (issued i s) := by
  obtain ⟨he, hled, hrs, ht⟩ := h.idle hb
  exact {
    rwLow := h.rwLow
    idle := fun hb => absurd hb.symm Bool.false_ne_true
    upc := fun _ => Nat.zero_le _
    levels := fun _ c => by
      cases c
      exacts [hled, he, h.rwLow, hrs]
    waiting := fun _ h0 => absurd ht h0
    data := fun _ src hsrc => by cases hsrc }

/-- Before a LOAD, DATA is 0x00, because a CLEAR executed last (R65). -/
theorem Inv.data_before_load {s : State} (h : Inv s) (hb : s.busy = true) {src : Src}
    (hn : nextMicro s = some (.load src)) : readData s.lines = 0x00#8 := by
  obtain ⟨h1, hclear⟩ := prog_load_after_clear hn
  have hx : executed s = (currentProg s).take (s.upc.toNat - 1) ++ [.clear] := by
    rw [executed, show s.upc.toNat = s.upc.toNat - 1 + 1 by omega, List.take_add_one, Nat.add_sub_cancel]
    exact congrArg (_ ++ Option.toList ·) hclear
  exact h.data hb (.const 0x00#8) (by rw [hx, dataSource_snoc])

/-- MICRO keeps the invariant: its lines and TMR are those its own micro-operation, now executed last, asks for (R103). -/
theorem Inv.micro {s : State} (h : Inv s) (hb : s.busy = true) (ht : s.tmr = 0#8) {m : MicroOp}
    (hn : nextMicro s = some m) : Inv (micro m s) where
  rwLow := by
    have hrw := h.rwLow
    rw [ctrl_micro]
    cases m with
    | set c b =>
      by_cases hc : c = .rw
      · subst hc
        cases b
        · rfl
        · exact absurd (nextMicro_mem hn) (prog_never_sets_rw _ _)
      · simpa [hc] using hrw
    | clear | load | delay => exact hrw
  idle hb' := by simp [hb] at hb'
  upc _ := by
    rw [micro_upc, upc_succ_toNat hn, currentProg_micro]
    exact nextMicro_lt hn
  levels _ c := by
    rw [ctrl_micro, executed_micro hn, levelAfter_snoc, h.levels hb c]
  waiting _ h0 := by
    rw [tmr_micro] at h0 ⊢
    rw [lastExecuted_micro hn]
    cases m with
    | delay n => exact ⟨n, rfl, Nat.le_refl _⟩
    | set | clear | load => exact absurd ht h0
  data _ src hsrc := by
    rw [executed_micro hn, dataSource_snoc] at hsrc
    rw [readData_micro, micro_buf, execMicro_buf]
    cases m with
    | set | delay => exact h.data hb src hsrc
    | clear => cases hsrc; rfl
    | load src' =>
      cases hsrc
      simp [h.data_before_load hb hn]

/-- The sequencer keeps the invariant (R34). -/
theorem Inv.sequencerStep {s : State} (h : Inv s) (hb : s.busy = true) : Inv (sequencerStep s) := by
  obtain ⟨-, hs⟩ | ⟨ht, m, hn, hs⟩ | ⟨ht, hu, hs⟩ | ⟨-, -, hs⟩ := sequencerStep_cases s <;> rw [hs]
  · exact h.tick
  · exact h.micro hb ht hn
  · exact h.done hb ht hu
  · exact h.tick

/-- Settles O43: the reset state is idle with every line low. -/
theorem invariantAtReset : Obligations.InvariantAtReset := inv_reset

/-- Settles O44, one lemma for each of the five things a step can do. -/
theorem stepKeepsInvariant : Obligations.StepKeepsInvariant := by
  intro s t hi h
  obtain ⟨rest, -, rfl⟩ | ⟨rest, -, rfl⟩ | ⟨-, hb, rfl⟩ | ⟨-, -, -, rfl⟩ | ⟨-, hb, i, rest, -, rfl⟩ := step_cases h
  · exact inv_hardwareReset _
  · exact (hi.withInputs _ _).tick
  · exact (hi.withInputs _ _).sequencerStep hb
  · exact (hi.withInputs _ _).tick
  · exact (hi.withInputs rest _).issued hb i

/-- E is low when a CLEAR or a LOAD is next (R34 item 3). -/
theorem Inv.enable_low_at_data_write {s : State} (h : Inv s) (hb : s.busy = true)
    (hn : nextMicro s = some .clear ∨ ∃ src, nextMicro s = some (.load src)) : ctrl s.lines .e = false := by
  rw [h.levels hb]
  exact prog_data_write_enable_low hn

/-- Only CLEAR and LOAD change DATA (R107, R108). -/
theorem data_write_of_readData_ne {m : MicroOp} {s : State} (h : readData (micro m s).lines ≠ readData s.lines) :
    m = .clear ∨ ∃ src, m = .load src := by
  rw [readData_micro] at h
  cases m with
  | set | delay => exact absurd rfl h
  | clear => exact .inl rfl
  | load src => exact .inr ⟨src, rfl⟩

/-- TMR is at most T_CHR_LOW (R30). -/
theorem Inv.tmr_le {s : State} (h : Inv s) : s.tmr.toNat ≤ 20 := by
  by_cases ht : s.tmr = 0#8
  · rw [ht]; decide
  · have hb : s.busy = true := by
      by_contra hb
      obtain ⟨-, -, -, h0⟩ := h.idle (by simpa using hb)
      exact ht h0
    obtain ⟨n, hl, hle⟩ := h.waiting hb ht
    have hmem : .delay n ∈ prog s.op s.len := List.mem_of_mem_take (List.mem_of_getLast? hl)
    exact hle.trans (prog_delay_le hmem)

/-- Settles O45: R34's items read off the invariant; a step that changes DATA is a CLEAR or a LOAD, and E is low at
both. -/
theorem reachableStateFacts : Obligations.ReachableStateFacts := by
  intro s hi
  refine ⟨hi.rwLow, hi.idle, fun t h hr hd => ?_, fun hb hn => hi.enable_low_at_data_write hb hn, fun hled => ?_,
    hi.tmr_le⟩
  · obtain ⟨hl, -⟩ | ⟨hb, -, -, m, hn, rfl⟩ := step_quiet_or_micro h hr
    · exact absurd (congrArg readData hl) hd
    · refine hi.enable_low_at_data_write hb ?_
      obtain rfl | ⟨src, rfl⟩ := data_write_of_readData_ne (s := { s with env := s.env.tail }) hd
      · exact .inl hn
      · exact .inr ⟨src, hn⟩
  · by_contra hb
    obtain ⟨-, hlow, -, -⟩ := hi.idle (by simpa using hb)
    exact Bool.false_ne_true (hlow.symm.trans hled)

/-- Settles O46: the micro-operation that moves E is a SET of E, and what stands around one is fixed. -/
theorem enableEdgesAreFramed : Obligations.EnableEdgesAreFramed := by
  intro s t hi h hr
  obtain ⟨hl, -⟩ | ⟨hb, -, -, m, hn, rfl⟩ := step_quiet_or_micro h hr
  · rw [hl]
    exact ⟨fun h0 h1 => absurd (h0.symm.trans h1) Bool.false_ne_true,
      fun h1 h0 => absurd (h0.symm.trans h1) Bool.false_ne_true⟩
  constructor
  · intro h0 h1
    obtain rfl := micro_enable_rise (s := { s with env := s.env.tail }) h0 h1
    obtain ⟨h2, hclear, src, hload⟩ := prog_enable_rise hn
    have hu : s.upc.toNat - 2 + 1 = s.upc.toNat - 1 := by omega
    exact ⟨s.upc.toNat - 2, src, by omega, hclear, hu ▸ hload⟩
  · intro h1 h0
    obtain rfl := micro_enable_fall (s := { s with env := s.env.tail }) h1 h0
    obtain ⟨hpos, high, low, hhigh, hlow, hpair⟩ := prog_enable_fall hn
    refine ⟨high, low, (lastExecuted_eq (hi.upc hb) hpos).trans hhigh, ?_, hpair⟩
    rw [nextMicro, currentProg_micro, micro_upc, upc_succ_toNat (s := { s with env := s.env.tail }) hn]
    exact hlow

end Sys2Proof.Machine
end

section
/-! SUPPORT. States that differ only in what no rule reads step alike (R29, R39). -/

namespace Sys2Proof.Machine

theorem step_issue {s : State} (h : BlockMoves s) (hb : s.busy = false) {i : Instr} {rest : List Byte}
    (hd : decode s.port = .ok i rest) : step s = .next (issued i { s with port := rest, env := s.env.tail }) := by
  have hp : s.port ≠ [] := fun hp => by rw [hp] at hd; cases hd
  rw [step_blockMoves h, blockStep_idle (s := { s with env := s.env.tail }) hb hp]
  simp only [hd]
  exact exec_idle i hb

/-- With UPC past the end only TICK is enabled (R27, R106). -/
theorem sequencerStep_pastEnd {s : State} (h : s.tmr = 0#8) (hu : (currentProg s).length < s.upc.toNat) :
    sequencerStep s = tick s := by
  have hn : (currentProg s)[s.upc.toNat]? = none := List.getElem?_eq_none (Nat.le_of_lt hu)
  simp [sequencerStep, h, hn, Nat.ne_of_gt hu]

theorem lengthOperand_toNat (cs : List Byte) : (lengthOperand cs).toNat = min cs.length 255 := by
  rw [lengthOperand, BitVec.toNat_ofNat]
  exact Nat.mod_eq_of_lt (show min cs.length 255 < 256 by omega)

/-- The entries an issued command will load are those it has just latched (R29). -/
theorem issuedBuf_eq (i : Instr) (s t : State) (j : Fin Config.bufDepth)
    (hj : .load (.buf j) ∈ prog (opOf i) (issuedLen i s)) : (issuedBuf i s)[j] = (issuedBuf i t)[j] := by
  have hw := loadsReadOnlyLatchedEntries _ _ j hj
  cases i with
  | resetLcd | clearDataBits => simp [opOf] at hw
  | writeString cs =>
    obtain ⟨-, hlt, hle⟩ | ⟨ho, -⟩ := hw
    · rw [issuedLen, lengthOperand_toNat] at hlt hle
      have hcs : cs.length ≤ 16 := by omega
      have hget : cs[j.val]? = some cs[j.val] := List.getElem?_eq_getElem (by omega)
      simp only [issuedBuf, stringBuf_getElem, hcs, if_true, hget, Option.getD_some]
    · cases ho
  | writeCharArray a =>
    obtain ⟨ho, -⟩ | ⟨-, h5⟩ := hw
    · cases ho
    · simp only [issuedBuf, arrayBuf_getElem, h5, dif_pos]

namespace SameObserved

variable {s t : State}

theorem blockMoves (h : SameObserved s t) (hm : BlockMoves s) : BlockMoves t := by
  unfold BlockMoves at hm ⊢
  rwa [← h.env]

/-- The same inputs beside states that look the same. -/
theorem withInputs (h : SameObserved s t) {p q : List Byte} {e f : List EnvMove} (hp : p = q) (he : e = f) :
    SameObserved { s with port := p, env := e } { t with port := q, env := f } :=
  ⟨h.lines, h.busy, h.upc, h.tmr, h.now, h.trace, h.latched, hp, he, h.draws, h.prog, h.buf⟩

/-- The move the environment has made is gone from both scripts. -/
theorem withTail (h : SameObserved s t) :
    SameObserved { s with env := s.env.tail } { t with env := t.env.tail } :=
  h.withInputs h.port (congrArg List.tail h.env)

theorem hardwareReset (h : SameObserved s t) : SameObserved (hardwareReset s) (hardwareReset t) where
  lines := rfl
  busy := rfl
  upc := rfl
  tmr := rfl
  now := rfl
  trace := rfl
  latched := by simp [h.lines, h.draws]
  port := h.port
  env := h.env
  draws := by simp [h.lines, h.draws]
  prog hb := by cases hb
  buf hb := by cases hb

theorem tick (h : SameObserved s t) : SameObserved (tick s) (tick t) where
  lines := h.lines
  busy := h.busy
  upc := h.upc
  tmr := by simp [h.tmr]
  now := by simp [h.now]
  trace := h.trace
  latched := h.latched
  port := h.port
  env := h.env
  draws := h.draws
  prog := h.prog
  buf := h.buf

theorem done (h : SameObserved s t) : SameObserved (done s) (done t) where
  lines := h.lines
  busy := rfl
  upc := h.upc
  tmr := h.tmr
  now := h.now
  trace := h.trace
  latched := h.latched
  port := h.port
  env := h.env
  draws := h.draws
  prog hb := by cases hb
  buf hb := by cases hb

theorem nextMicro_eq (h : SameObserved s t) (hb : s.busy = true) : nextMicro s = nextMicro t := by
  obtain ⟨-, hp⟩ := h.prog hb
  rw [nextMicro, nextMicro, hp, h.upc]

/-- The operand of the LOAD that is next has one value in both states (R29, R108). -/
theorem srcValue_eq (h : SameObserved s t) (hb : s.busy = true) {src : Src} (hn : nextMicro s = some (.load src)) :
    srcValue s.buf src = srcValue t.buf src := by
  cases src with
  | const c => rfl
  | buf i => exact h.buf hb i (nextMicro_mem hn)

theorem micro (h : SameObserved s t) (hb : s.busy = true) {m : MicroOp} (hn : nextMicro s = some m) :
    SameObserved (micro m s) (micro m t) := by
  have hv : ∀ src, m = .load src → srcValue s.buf src = srcValue t.buf src := fun src hm => h.srcValue_eq hb (hm ▸ hn)
  constructor
  case lines => cases m <;> simp [execMicro, h.lines, hv]
  case tmr => cases m <;> simp [execMicro, h.tmr]
  case trace => cases m <;> simp [execMicro, h.lines, h.trace, hv]
  case latched => cases m <;> simp [execMicro, h.lines, h.latched]
  case prog => simpa using h.prog
  case buf => simpa using h.buf
  all_goals simp [h.busy, h.upc, h.now, h.port, h.env, h.draws]

theorem sequencerStep (h : SameObserved s t) (hb : s.busy = true) :
    SameObserved (sequencerStep s) (sequencerStep t) := by
  obtain ⟨-, hp⟩ := h.prog hb
  obtain ⟨ht, hs⟩ | ⟨ht, m, hn, hs⟩ | ⟨ht, hu, hs⟩ | ⟨ht, hu, hs⟩ := sequencerStep_cases s <;> rw [hs]
  · rw [sequencerStep_wait (h.tmr ▸ ht)]
    exact h.tick
  · rw [sequencerStep_micro (h.tmr ▸ ht) (h.nextMicro_eq hb ▸ hn)]
    exact h.micro hb hn
  · rw [sequencerStep_done (h.tmr ▸ ht) (by rw [← h.upc, ← hp, hu])]
    exact h.done
  · rw [sequencerStep_pastEnd (h.tmr ▸ ht) (by rw [← h.upc, ← hp]; exact hu)]
    exact h.tick

theorem issued (h : SameObserved s t) (i : Instr) : SameObserved (issued i s) (issued i t) where
  lines := h.lines
  busy := rfl
  upc := rfl
  tmr := h.tmr
  now := h.now
  trace := h.trace
  latched := h.latched
  port := h.port
  env := h.env
  draws := h.draws
  prog _ := ⟨rfl, by cases i <;> rfl⟩
  buf _ := issuedBuf_eq i s t

/-- States that look the same step to states that look the same. -/
theorem step_next (h : SameObserved s t) {s' : State} (hs : step s = .next s') :
    ∃ t', step t = .next t' ∧ SameObserved s' t' := by
  obtain ⟨rest, he, rfl⟩ | ⟨rest, he, rfl⟩ | ⟨hm, hb, rfl⟩ | ⟨hm, hb, hp, rfl⟩ | ⟨hm, hb, i, rest, hd, rfl⟩ :=
    step_cases hs
  · exact ⟨_, step_reset (h.env ▸ he), (h.withInputs h.port rfl).hardwareReset⟩
  · exact ⟨_, step_tick (h.env ▸ he), (h.withInputs h.port rfl).tick⟩
  · exact ⟨_, step_busy (h.blockMoves hm) (h.busy ▸ hb), h.withTail.sequencerStep hb⟩
  · exact ⟨_, step_idle (h.blockMoves hm) (h.busy ▸ hb) (h.port ▸ hp), h.withTail.tick⟩
  · exact ⟨_, step_issue (h.blockMoves hm) (h.busy ▸ hb) (h.port ▸ hd),
      (h.withInputs rfl (congrArg List.tail h.env)).issued i⟩

/-- OP, LEN and BUF of an idle block are read by no rule (R39). -/
theorem of_idle (hb : s.busy = false) (o : Op) (len : BitVec Config.lenWidth) (b : Buf) :
    SameObserved s { s with op := o, len := len, buf := b } :=
  ⟨rfl, rfl, rfl, rfl, rfl, rfl, rfl, rfl, rfl, rfl, fun h => absurd (hb.symm.trans h) Bool.false_ne_true,
    fun h => absurd (hb.symm.trans h) Bool.false_ne_true⟩

end SameObserved

/-- Settles O50: a simulation, one lemma for each thing a step can do. -/
theorem unreadStateIsUnobservable : Obligations.UnreadStateIsUnobservable :=
  ⟨fun _ _ _ h hs => h.step_next hs, fun _ o len b hb => .of_idle hb o len b⟩

end Sys2Proof.Machine
end

section
/-! SUPPORT. Runs without a hardware reset: NOW never falls, and TMR counts down no faster than NOW goes up (R60, R105,
R110). -/

namespace Sys2Proof.Machine

theorem sequencerStep_env (s : State) : (sequencerStep s).env = s.env := by
  obtain ⟨-, hs⟩ | ⟨-, m, -, hs⟩ | ⟨-, -, hs⟩ | ⟨-, -, hs⟩ := sequencerStep_cases s <;> simp [hs]

theorem sequencerStep_now_le (s : State) : s.now ≤ (sequencerStep s).now := by
  obtain ⟨-, hs⟩ | ⟨-, m, -, hs⟩ | ⟨-, -, hs⟩ | ⟨-, -, hs⟩ := sequencerStep_cases s <;> simp [hs]

/-- Every step takes one move off the environment's script, if there is one. -/
theorem step_env {s t : State} (h : step s = .next t) : t.env = s.env.tail := by
  obtain ⟨rest, he, rfl⟩ | ⟨rest, he, rfl⟩ | ⟨-, -, rfl⟩ | ⟨-, -, -, rfl⟩ | ⟨-, -, i, rest, -, rfl⟩ := step_cases h
  · rw [he]; rfl
  · rw [he]; rfl
  · exact sequencerStep_env { s with env := s.env.tail }
  · rfl
  · rfl

theorem NoReset.noResetNow {s : State} (h : NoReset s) : NoResetNow s := fun he => h (List.mem_of_mem_head? he)

theorem NoReset.step {s t : State} (h : NoReset s) (hs : step s = .next t) : NoReset t := by
  unfold NoReset
  rw [step_env hs]
  exact fun hm => h (List.mem_of_mem_tail hm)

/-- What every step but a hardware reset keeps holds at the end of a run without one. -/
theorem runSteps_keeps {P : State → Prop} (hP : ∀ s t, P s → NoResetNow s → step s = .next t → P t) {k : Nat}
    {s t : State} (h : runSteps k s = .next t) (hr : NoReset s) (hs : P s) : P t := by
  induction k generalizing s with
  | zero => rw [runSteps_zero] at h; cases h; exact hs
  | succ k ih =>
    rw [runSteps_succ] at h
    cases hu : step s with
    | next u => rw [hu] at h; exact ih h (hr.step hu) (hP s u hs hr.noResetNow hu)
    | fault r => rw [hu] at h; cases h
    | refused r => rw [hu] at h; cases h

/-- Only a hardware reset sets NOW back (R105, R230). -/
theorem step_now_le {s t : State} (h : step s = .next t) (hr : NoResetNow s) : s.now ≤ t.now := by
  obtain ⟨rest, he, -⟩ | ⟨rest, -, rfl⟩ | ⟨-, -, rfl⟩ | ⟨-, -, -, rfl⟩ | ⟨-, -, i, rest, -, rfl⟩ := step_cases h
  · exact absurd (by rw [he]; rfl) hr
  · exact Nat.le_succ _
  · exact sequencerStep_now_le { s with env := s.env.tail }
  · exact Nat.le_succ _
  · exact Nat.le_refl _

/-- A TICK brings the end of the delay no nearer than NOW plus TMR (R105). -/
theorem tick_now_add_tmr_le (s : State) : s.now + s.tmr.toNat ≤ (tick s).now + (tick s).tmr.toNat := by
  by_cases ht : s.tmr = 0#8
  · simp [ht]
  · have hp := tmr_pred s.tmr ht
    simp only [tick_now, tick_tmr, if_neg ht]
    omega

/-- A step of a busy block either keeps it waiting at the same UPC, with NOW plus TMR no smaller, or finds TMR at 0
(R103 to R106). -/
theorem step_busy_waits_or_elapsed {s t : State} (h : step s = .next t) (hr : NoResetNow s) (hb : s.busy = true) :
    (t.busy = true ∧ t.upc = s.upc ∧ s.now + s.tmr.toNat ≤ t.now + t.tmr.toNat) ∨ s.tmr = 0#8 := by
  obtain ⟨rest, he, -⟩ | ⟨rest, -, rfl⟩ | ⟨-, -, rfl⟩ | ⟨-, hi, -⟩ | ⟨-, hi, -⟩ := step_cases h
  · exact absurd (by rw [he]; rfl) hr
  · exact .inl ⟨hb, rfl, tick_now_add_tmr_le { s with env := rest }⟩
  · by_cases ht : s.tmr = 0#8
    · exact .inr ht
    · rw [sequencerStep_wait (by exact ht)]
      exact .inl ⟨hb, rfl, tick_now_add_tmr_le { s with env := s.env.tail }⟩
  · exact absurd hb (by simp [hi])
  · exact absurd hb (by simp [hi])

/-- Either NOW has reached `deadline`, or the block still waits at UPC `u` and will not be done before it. -/
def HeldUntil (u : BitVec Config.upcWidth) (deadline : Nat) (s : State) : Prop :=
  deadline ≤ s.now ∨ (s.busy = true ∧ s.upc = u ∧ deadline ≤ s.now + s.tmr.toNat)

theorem HeldUntil.step {u : BitVec Config.upcWidth} {deadline : Nat} {s t : State} (hd : HeldUntil u deadline s)
    (hr : NoResetNow s) (h : step s = .next t) : HeldUntil u deadline t := by
  have hnow := step_now_le h hr
  obtain hpast | ⟨hb, hu, hle⟩ := hd
  · exact .inl (hpast.trans hnow)
  · obtain ⟨htb, htu, hsum⟩ | ht := step_busy_waits_or_elapsed h hr hb
    · exact .inr ⟨htb, htu.trans hu, hle.trans hsum⟩
    · rw [ht] at hle
      exact .inl (hle.trans hnow)

/-- Settles O24: the start is held until NOW plus TMR, and every step keeps `HeldUntil`. -/
theorem delayIsALowerBound : Obligations.DelayIsALowerBound := by
  intro s t k hb hr hrun hmoved
  obtain hpast | ⟨htb, htu, -⟩ : HeldUntil s.upc (s.now + s.tmr.toNat) t :=
    runSteps_keeps (fun _ _ hd hr h => hd.step hr h) hrun hr (.inr ⟨hb, rfl, Nat.le_refl _⟩)
  · exact hpast
  · obtain hne | hidle := hmoved
    · exact absurd htu hne
    · exact absurd htb (by simp [hidle])

/-- Settles O29: it is the LOAD clause of `prog_framedAt`. -/
theorem everyLoadFollowsClear : Obligations.EveryLoadFollowsClear :=
  fun _ _ _ _ h => prog_load_after_clear h

end Sys2Proof.Machine
end

section
/-! SUPPORT. `Decode` and `Encode` of a frame, said once for each opcode byte and each format (R71 to R80), and that the
two are inverse. -/

namespace Sys2Proof

/-- Every byte is the opcode byte of an operation, whose number it then is, or reserved (R71, R79). -/
theorem opcode_cases (b : Byte) : (∃ o, b = opcodeByte o) ∨ 4 ≤ b.toNat := by
  by_cases h : opcodeZero b = 0#6
  · exact .inl ⟨_, opcodeByte_of_legal b h⟩
  · exact .inr (Nat.le_of_not_lt fun hlt => h ((opcodeZero_iff b).2 hlt))

@[simp] theorem decode_opcode_resetLcd (bs : List Byte) : decode (opcodeByte .resetLcd :: bs) = .ok .resetLcd bs := rfl

@[simp] theorem decode_opcode_clearDataBits (bs : List Byte) :
    decode (opcodeByte .clearDataBits :: bs) = .ok .clearDataBits bs := rfl

@[simp] theorem decode_opcode_writeString (bs : List Byte) :
    decode (opcodeByte .writeString :: bs) = decodeString bs := rfl

@[simp] theorem decode_opcode_writeCharArray (bs : List Byte) :
    decode (opcodeByte .writeCharArray :: bs) = decodeArray bs := rfl

/-- A reserved opcode byte is refused, whatever follows it (R79). -/
theorem decode_reserved {b : Byte} (h : 4 ≤ b.toNat) (bs : List Byte) :
    decode (b :: bs) = .refuse .reservedOpcode :=
  if_neg fun hz => Nat.not_lt.2 h ((opcodeZero_iff b).1 hz)

/-- Format S with the length byte of `s` and its codes decodes to `s` (R73). -/
theorem decodeString_frame {s : List Byte} (h : s.length ≤ maxFrameLen) (r : List Byte) :
    decodeString (BitVec.ofNat 8 s.length :: (s ++ r)) = .ok (.writeString s) r := by
  simp [decodeString, lengthByte_toNat h]

/-- What format S accepts is a length byte, that many codes, and the rest (R73). -/
theorem decodeString_eq_ok {bs r : List Byte} {i : Instr} (h : decodeString bs = .ok i r) :
    ∃ s : List Byte, s.length ≤ maxFrameLen ∧ i = .writeString s ∧ bs = BitVec.ofNat 8 s.length :: (s ++ r) := by
  cases bs with
  | nil => cases h
  | cons l ls =>
    by_cases hl : ls.length < l.toNat
    · rw [decodeString, if_pos hl] at h
      cases h
    · rw [decodeString, if_neg hl] at h
      cases h
      have hlen : (ls.take l.toNat).length = l.toNat := List.length_take_of_le (Nat.le_of_not_lt hl)
      refine ⟨ls.take l.toNat, ?_, rfl, ?_⟩
      · rw [hlen]
        exact Nat.le_of_lt_succ l.isLt
      · rw [hlen, BitVec.ofNat_toNat, BitVec.setWidth_eq, List.take_append_drop]

/-- Format S is refused only as truncated: without a length byte, or with fewer codes than it says (R80). -/
theorem decodeString_eq_refuse {bs : List Byte} {why : FrameRefusal} : decodeString bs = .refuse why ↔
    why = .truncated ∧ (bs = [] ∨ ∃ l ls, bs = l :: ls ∧ ls.length < l.toNat) := by
  cases bs with
  | nil => simp [decodeString, eq_comm]
  | cons l ls =>
    by_cases hl : ls.length < l.toNat
    · simp [decodeString, hl, eq_comm]
    · simp [decodeString, hl]

/-- Format A with the five codes of `a` decodes to `a` (R75). -/
theorem decodeArray_frame (a : Vector Byte Config.arrayLen) (r : List Byte) :
    decodeArray (a.toList ++ r) = .ok (.writeCharArray a) r := by
  obtain ⟨⟨l⟩, hl⟩ := a
  match l, hl with
  | [_, _, _, _, _], _ => rfl

/-- Format A accepts five codes and a rest, or is refused as truncated with fewer than five (R75, R80). -/
theorem decodeArray_cases (bs : List Byte) :
    (∃ (a : Vector Byte Config.arrayLen) (r : List Byte), bs = a.toList ++ r) ∨
    (bs.length < 5 ∧ decodeArray bs = .refuse .truncated) := by
  match bs with
  | c0 :: c1 :: c2 :: c3 :: c4 :: r => exact .inl ⟨#v[c0, c1, c2, c3, c4], r, rfl⟩
  | [] | [_] | [_, _] | [_, _, _] | [_, _, _, _] => exact .inr ⟨by simp, rfl⟩

/-- What format A accepts is five codes and the rest (R75). -/
theorem decodeArray_eq_ok {bs r : List Byte} {i : Instr} (h : decodeArray bs = .ok i r) :
    ∃ a : Vector Byte Config.arrayLen, i = .writeCharArray a ∧ bs = a.toList ++ r := by
  obtain ⟨a, r', rfl⟩ | ⟨-, hd⟩ := decodeArray_cases bs
  · rw [decodeArray_frame] at h
    cases h
    exact ⟨a, rfl, rfl⟩
  · rw [hd] at h
    cases h

/-- Format A is refused only as truncated, when fewer than five bytes follow the opcode byte (R80). -/
theorem decodeArray_eq_refuse {bs : List Byte} {why : FrameRefusal} :
    decodeArray bs = .refuse why ↔ why = .truncated ∧ bs.length < 5 := by
  obtain ⟨a, r, rfl⟩ | ⟨hl, hd⟩ := decodeArray_cases bs
  · simp [decodeArray_frame]
  · simp [hd, hl, eq_comm]

/-- Settles O1: each opcode byte selects its format, and each format reads back what it carries. -/
theorem decodeInvertsEncode : Obligations.DecodeInvertsEncode := by
  intro i r hw
  cases i with
  | resetLcd => exact decode_opcode_resetLcd r
  | clearDataBits => exact decode_opcode_clearDataBits r
  | writeString s => exact (decode_opcode_writeString _).trans (decodeString_frame (of_decide_eq_true hw) r)
  | writeCharArray a => exact (decode_opcode_writeCharArray _).trans (decodeArray_frame a r)

/-- Settles O2, by what each format accepts. -/
theorem acceptedFramesAreEncodings : Obligations.AcceptedFramesAreEncodings := by
  intro bs i r h
  cases bs with
  | nil => cases h
  | cons b bs =>
    obtain ⟨o, rfl⟩ | hb := opcode_cases b
    · cases o with
      | resetLcd | clearDataBits =>
        cases h
        exact ⟨rfl, rfl⟩
      | writeString =>
        obtain ⟨s, hs, rfl, rfl⟩ := decodeString_eq_ok h
        exact ⟨decide_eq_true hs, rfl⟩
      | writeCharArray =>
        obtain ⟨a, rfl, rfl⟩ := decodeArray_eq_ok h
        exact ⟨rfl, rfl⟩
    · rw [decode_reserved hb] at h
      cases h

/-- The frame of every well-formed command tells its own length (R76). -/
theorem frameLength_encode {i : Instr} (hw : wellFormed i = true) (r : List Byte) :
    frameLength (encode i ++ r) = some (encode i).length := by
  have h : Laws.FrameLength.Statement i := by
    cases i with
    | resetLcd => exact Laws.FrameLength.resetLcd
    | clearDataBits => exact Laws.FrameLength.clearDataBits
    | writeString s => exact Laws.FrameLength.writeString s
    | writeCharArray a => exact Laws.FrameLength.writeCharArray a
  obtain ⟨hlen, -⟩ := h hw
  exact hlen r

/-- The number of an opcode byte is its operation's (R71). -/
theorem opcodeByte_toNat (o : Op) : (opcodeByte o).toNat = (opBits o).toNat := by
  cases o <;> rfl

/-- Settles O3: an accepted frame is `encode i` followed by the rest, and `encode i` tells its own length. -/
theorem frameLengthFromFirstBytes : Obligations.FrameLengthFromFirstBytes := by
  refine ⟨fun b bs => ?_, fun bs i r h => ?_⟩
  · obtain ⟨o, rfl⟩ | hb := opcode_cases b
    · rw [opcodeByte_toNat]
      cases o with
      | resetLcd | clearDataBits => exact ⟨fun _ => rfl, nofun, nofun⟩
      | writeString => exact ⟨nofun, nofun, by rintro - l ls rfl; rfl⟩
      | writeCharArray => exact ⟨nofun, fun _ => rfl, nofun⟩
    · exact ⟨fun _ => by omega, fun _ => by omega, fun _ => by omega⟩
  · obtain ⟨hw, rfl⟩ := acceptedFramesAreEncodings bs i r h
    exact ⟨_, frameLength_encode hw r, by simp, List.drop_left.symm⟩

/-- A frame is refused as reserved exactly for an opcode byte that is reserved (R79). -/
theorem decode_eq_reserved {b : Byte} {bs : List Byte} :
    decode (b :: bs) = .refuse .reservedOpcode ↔ 4 ≤ b.toNat := by
  refine ⟨fun h => ?_, fun h => decode_reserved h bs⟩
  obtain ⟨o, rfl⟩ | hb := opcode_cases b
  · cases o with
    | resetLcd | clearDataBits => cases h
    | writeString => obtain ⟨⟨⟩, -⟩ := decodeString_eq_refuse.1 h
    | writeCharArray => obtain ⟨⟨⟩, -⟩ := decodeArray_eq_refuse.1 h
  · exact hb

/-- Settles O5: only the two formats with operands can be cut short. -/
theorem truncatedFramesRefused : Obligations.TruncatedFramesRefused := by
  intro b bs
  obtain ⟨o, rfl⟩ | hb := opcode_cases b
  · rw [opcodeByte_toNat]
    cases o with
    | resetLcd | clearDataBits => simp [opBits]
    | writeString => simp [opBits, decodeString_eq_refuse]
    | writeCharArray => simp [opBits, decodeArray_eq_refuse]
  · rw [decode_reserved hb]
    refine ⟨nofun, ?_⟩
    rintro (⟨h2, -⟩ | ⟨h3, -⟩) <;> omega

/-- Settles O6, by running the decoder on the four frames. -/
theorem workedFramesDecode : Obligations.WorkedFramesDecode := ⟨rfl, rfl, rfl, rfl⟩

end Sys2Proof

namespace Sys2Proof.Machine

/-- Settles O4: an idle block decodes what is presented to it, and its refusal is the decoder's. -/
theorem reservedOpcodesRefused : Obligations.ReservedOpcodesRefused := by
  intro b bs
  refine ⟨decode_eq_reserved, fun s hb hidle hm hp => ?_⟩
  have hne : s.port ≠ [] := by simp [hp]
  rw [step_blockMoves hm, blockStep_idle (s := { s with env := s.env.tail }) hidle hne]
  simp only [hp, decode_reserved hb]

end Sys2Proof.Machine
end

section
/-! SUPPORT. What the assembler can accept, line by line (R87, R88). -/

namespace Sys2Proof.Machine

/-- A WRITE_CHAR_ARRAY line gives an array, which has a frame (R88). -/
theorem asmArrayLine_wellFormed {cs : List Char} {i : Instr} (h : asmArrayLine cs = .command i) :
    wellFormed i = true := by
  unfold asmArrayLine at h
  split at h
  · split at h
    next vs _ _ j hfive =>
      split at h
      · cases h
        unfold asmFive at hfive
        split at hfive <;> cases hfive
        rfl
      · cases h
    · cases h
  · cases h

/-- A WRITE_STRING line gives a string that passed the length check (R88). -/
theorem asmStringLine_wellFormed {cs : List Char} {i : Instr} (h : asmStringLine cs = .command i) :
    wellFormed i = true := by
  unfold asmStringLine at h
  split at h
  · split at h
    next hcheck =>
      cases h
      exact (Bool.and_eq_true_iff.1 hcheck).2
    · cases h
  · cases h

/-- A line that is accepted as a command is one of the two mnemonics without an operand, or one of the two operand
lines (R87). -/
theorem asmLine_command_cases {cs : List Char} {i : Instr} (h : asmLine cs = .command i) :
    i = .resetLcd ∨ i = .clearDataBits ∨ (∃ rest, asmStringLine rest = .command i) ∨
      ∃ rest, asmArrayLine rest = .command i := by
  unfold asmLine at h
  split at h
  · cases h
  dsimp only at h
  split at h
  · split at h <;> cases h
    exact .inl rfl
  split at h
  · split at h <;> cases h
    exact .inr (.inl rfl)
  split at h
  · exact .inr (.inr (.inl ⟨_, h⟩))
  split at h
  · exact .inr (.inr (.inr ⟨_, h⟩))
  · cases h

/-- Settles O7: the two commands without an operand have a frame, and each operand line checks for one. -/
theorem assembledCommandsHaveFrames : Obligations.AssembledCommandsHaveFrames := by
  intro cs i h
  obtain rfl | rfl | ⟨rest, h⟩ | ⟨rest, h⟩ := asmLine_command_cases h
  · rfl
  · rfl
  · exact asmStringLine_wellFormed h
  · exact asmArrayLine_wellFormed h

end Sys2Proof.Machine
end

section
/-! SUPPORT. The words the block sends (R82, R84): which RS and which DATA stand on the lines when E falls. -/

namespace Sys2Proof.Machine

/-- At each `SET E 0`, RS is high, or the last data write is a LOAD of one of RESET_LCD's bytes (R84, R151, R171). -/
theorem prog_enable_fall_sends {o : Op} {len : BitVec Config.lenWidth} {k : Nat}
    (h : (prog o len)[k]? = some (.set .e false)) :
    levelAfter .rs false ((prog o len).take k) = true ∨
      ∃ c ∈ initBytes Config.params.cmds, dataSource ((prog o len).take k) = some (.const c) :=
  prog_of_everyProg
    (P := fun _ p => ∀ k < p.length, p[k]? = some (.set .e false) → levelAfter .rs false (p.take k) = true ∨
      ∃ c ∈ initBytes Config.params.cmds, dataSource (p.take k) = some (.const c))
    (by decide +kernel) o len k (List.getElem?_eq_some_iff.1 h).1 h

/-- The word on the lines is one the protocol allows when `SET E 0` is next (R82, R84). -/
theorem busWord_protocol {s : State} (h : Inv s) (hb : s.busy = true) (hn : nextMicro s = some (.set .e false)) :
    ProtocolWord (busWord s.lines) := by
  refine ⟨h.rwLow, fun hrs => ?_⟩
  obtain hhigh | ⟨c, hc, hsrc⟩ := prog_enable_fall_sends hn
  · exact absurd (hrs.symm.trans ((h.levels hb .rs).trans hhigh)) Bool.false_ne_true
  · have hdata : readData s.lines = c := h.data hb _ hsrc
    change readData s.lines ∈ _
    rwa [hdata]

/-- MICRO sends only words the protocol allows (R38, R82, R84). -/
theorem micro_latched_protocol {s : State} (h : Inv s) (hb : s.busy = true) {m : MicroOp}
    (hn : nextMicro s = some m) (hw : ∀ w ∈ s.latched, ProtocolWord w) : ∀ w ∈ (micro m s).latched, ProtocolWord w := by
  intro w hmem
  rw [micro_latched_eq, List.mem_append] at hmem
  obtain hold | hnew := hmem
  · exact hw w hold
  · split at hnew
    next hfall =>
      obtain ⟨hhigh, hlow⟩ := hfall
      obtain rfl := micro_enable_fall hhigh hlow
      rw [List.mem_singleton.1 hnew]
      exact busWord_protocol h hb hn
    · cases hnew

/-- Settles O48: a hardware reset while E is low latches nothing, and any other step that latches is a MICRO. -/
theorem sentWordsFollowTheProtocol : Obligations.SentWordsFollowTheProtocol := by
  intro s t hi h hr hw
  by_cases hnow : NoResetNow s
  · obtain ⟨-, hl⟩ | ⟨hb, -, -, m, hn, rfl⟩ := step_quiet_or_micro h hnow
    · exact hl ▸ hw
    · exact micro_latched_protocol (hi.withInputs s.port s.env.tail) hb hn hw
  · have he : ctrl s.lines .e = false := hr.resolve_left hnow
    obtain ⟨rest, hrest⟩ := List.head?_eq_some_iff.1 (not_not.1 hnow)
    rw [step_reset hrest] at h
    cases h
    simp [he]

end Sys2Proof.Machine
end

section
/-! SUPPORT. The sequencer's steps one by one (40_sequencer_primitives.md section 2): ISSUE, MICRO, DONE and TICK. -/

namespace Sys2Proof.Machine

/-- `Decode` refuses as empty only the empty byte string (R78). -/
theorem decode_eq_empty {bs : List Byte} (h : decode bs = .refuse .empty) : bs = [] := by
  cases bs with
  | nil => rfl
  | cons b bs =>
    obtain ⟨o, rfl⟩ | hb := opcode_cases b
    · cases o with
      | resetLcd | clearDataBits => cases h
      | writeString => obtain ⟨⟨⟩, -⟩ := decodeString_eq_refuse.1 h
      | writeCharArray => obtain ⟨⟨⟩, -⟩ := decodeArray_eq_refuse.1 h
    · rw [decode_reserved hb] at h
      cases h

/-- A TICK as one update: NOW goes up by one and TMR down to no less than 0 (R105). -/
theorem tick_eq (s : State) : tick s = { s with now := s.now + 1, tmr := BitVec.ofNat 8 (s.tmr.toNat - 1) } := by
  have htmr : (if s.tmr = 0#8 then s.tmr else s.tmr - 1#8) = BitVec.ofNat 8 (s.tmr.toNat - 1) := by
    generalize s.tmr = t
    revert t
    decide
  rw [← htmr]
  rfl

theorem tick_tmr_toNat (u : State) : (tick u).tmr.toNat = u.tmr.toNat - 1 := by
  have hlt : u.tmr.toNat < 256 := u.tmr.isLt
  rw [tick_eq]
  exact Nat.mod_eq_of_lt (show u.tmr.toNat - 1 < 256 by omega)

/-- A step that is no hardware reset is the block's or the host's, or a TICK (R106). -/
theorem NoResetNow.blockMoves_or_tick {s : State} (h : NoResetNow s) :
    BlockMoves s ∨ step s = .next (tick { s with env := s.env.tail }) := by
  obtain hm | ⟨rest, he⟩ | ⟨rest, he⟩ := env_cases s
  · exact .inl hm
  · exact .inr (by rw [step_tick he, he]; rfl)
  · exact absurd (by rw [he]; rfl) h

/-- A waiting block takes a TICK (R106). -/
theorem step_wait {s : State} (hb : s.busy = true) (ht : s.tmr ≠ 0#8) (hr : NoResetNow s) :
    step s = .next (tick { s with env := s.env.tail }) := by
  obtain hm | h := hr.blockMoves_or_tick
  · rw [step_busy hm hb, sequencerStep_wait (by exact ht)]
  · exact h

/-- MICRO (R103). -/
theorem step_micro {s : State} {m : MicroOp} (hb : s.busy = true) (ht : s.tmr = 0#8) (hm : BlockMoves s)
    (hn : nextMicro s = some m) : step s = .next (micro m { s with env := s.env.tail }) := by
  rw [step_busy hm hb, sequencerStep_micro (by exact ht) (by exact hn)]

/-- DONE (R104). -/
theorem step_done {s : State} (hb : s.busy = true) (ht : s.tmr = 0#8) (hm : BlockMoves s)
    (hu : s.upc.toNat = (currentProg s).length) : step s = .next (done { s with env := s.env.tail }) := by
  rw [step_busy hm hb, sequencerStep_done (by exact ht) (by exact hu)]

/-- A request that `Decode` refuses is the step's refusal (R79, R202). -/
theorem step_refused {s : State} {why : FrameRefusal} (hb : s.busy = false) (hm : BlockMoves s) (hp : s.port ≠ [])
    (hd : decode s.port = .refuse why) : step s = .refused (.frame why) := by
  rw [step_blockMoves hm, blockStep_idle (s := { s with env := s.env.tail }) hb hp]
  simp only [hd]

/-- Only DONE takes the sequencer to BUSY = 0 (R104). -/
theorem elapsed_of_sequencerStep_idle {s : State} (hb : s.busy = true) (h : (sequencerStep s).busy = false) :
    s.tmr = 0#8 ∧ s.upc.toNat = (currentProg s).length := by
  obtain ⟨-, hs⟩ | ⟨-, m, -, hs⟩ | ⟨ht, hu, -⟩ | ⟨-, -, hs⟩ := sequencerStep_cases s
  case inr.inr.inl => exact ⟨ht, hu⟩
  all_goals simp [hs, hb] at h

/-- An idle block with no request pending takes a TICK (R105, R119). -/
theorem step_over {s : State} (hb : s.busy = false) (hp : s.port = []) (hr : NoResetNow s) :
    step s = .next (tick { s with env := s.env.tail }) := by
  obtain hm | h := hr.blockMoves_or_tick
  · exact step_idle hm hb hp
  · exact h

/-- A micro-operation logs exactly one event (R103). -/
theorem execMicro_trace (m : MicroOp) (s : State) : ∃ ev, (execMicro m s).trace = s.trace ++ [ev] := by
  cases m <;> exact ⟨_, rfl⟩

/-- Settles O8: the step is the host's, and the host presents the pending bytes. -/
theorem stepRunsDecodedInstruction : Obligations.StepRunsDecodedInstruction := by
  intro s i rest hb hm hd
  rw [step_issue hm hb hd, exec_idle i (by exact hb)]

/-- Settles O9: `issued` says what ISSUE writes, and the latches are known entry by entry. -/
theorem issueLatchesOperands : Obligations.IssueLatchesOperands := by
  refine ⟨fun s hb => ⟨exec_idle .resetLcd hb, exec_idle .clearDataBits hb, fun cs => ?_, fun a => ?_⟩,
    fun s i hb => exec_busy i hb⟩
  · exact ⟨stringBuf cs s.buf, exec_idle (.writeString cs) hb, stringBuf_getElem cs s.buf⟩
  · exact ⟨arrayBuf a s.buf, exec_idle (.writeCharArray a) hb, arrayBuf_getElem a s.buf⟩

/-- Settles O11, by `step_micro`. -/
theorem microStepExecutesAndAdvances : Obligations.MicroStepExecutesAndAdvances := by
  intro s m hb ht hm hn
  refine ⟨?_, execMicro_trace m s, (execMicro_busy m s).trans hb, execMicro_upc m s⟩
  rw [step_micro hb ht hm hn, micro, execMicro_upc]

/-- Settles O12: of all that a step of a busy block can do, only DONE and a hardware reset clear BUSY. -/
theorem doneOnlyClearsBusy : Obligations.DoneOnlyClearsBusy := by
  refine ⟨fun s hb ht hu hm => step_done hb ht hm hu, fun s t hb hr h htb => ?_⟩
  obtain ⟨rest, he, -⟩ | ⟨rest, -, rfl⟩ | ⟨hm, -, rfl⟩ | ⟨-, hi, -⟩ | ⟨-, hi, -⟩ := step_cases h
  · exact absurd (by rw [he]; rfl) hr
  · exact absurd (hb.symm.trans htb) Bool.noConfusion
  · obtain ⟨ht, hu⟩ := elapsed_of_sequencerStep_idle (s := { s with env := s.env.tail }) hb htb
    exact ⟨ht, hu, hm⟩
  · exact absurd (hb.symm.trans hi) Bool.noConfusion
  · exact absurd (hb.symm.trans hi) Bool.noConfusion

/-- Settles O13, by `step_tick`. -/
theorem tickAlwaysEnabled : Obligations.TickAlwaysEnabled := by
  intro s rest he
  rw [step_tick he, tick_eq]

/-- Settles O14, by `step_wait`. -/
theorem waitingAllowsOnlyTicks : Obligations.WaitingAllowsOnlyTicks := by
  intro s t hb ht hr h
  rw [step_wait hb ht hr] at h
  cases h
  simp only [tick, ht, if_false]

/-- Settles O15: only the host's step is no next state, and only when `decode` refuses what is pending. -/
theorem onlyRefusedFramesStop : Obligations.OnlyRefusedFramesStop := by
  intro s
  obtain hm | ⟨rest, he⟩ | ⟨rest, he⟩ := env_cases s
  · cases hb : s.busy with
    | true => exact .inl ⟨_, step_busy hm hb⟩
    | false =>
      by_cases hp : s.port = []
      · exact .inl ⟨_, step_idle hm hb hp⟩
      cases hd : decode s.port with
      | ok i rest => exact .inl ⟨_, step_issue hm hb hd⟩
      | refuse why =>
        exact .inr ⟨rfl, hm, why, fun hw => hp (decode_eq_empty (hw ▸ hd)), rfl, step_refused hb hm hp hd⟩
  · exact .inl ⟨_, step_tick he⟩
  · exact .inl ⟨_, step_reset he⟩

/-- Settles O51: an ended run takes only TICKs, and a TICK leaves BUSY and the pending bytes alone. -/
theorem endedRunStaysEnded : Obligations.EndedRunStaysEnded := by
  refine ⟨runOver_iff, fun s t ho hr h => ?_⟩
  obtain ⟨hp, hb⟩ := (runOver_iff s).1 ho
  rw [step_over hb hp hr] at h
  cases h
  exact ⟨(runOver_iff _).2 ⟨hp, hb⟩, tick_eq _⟩

/-- Settles O23: one MICRO, then the countdown. -/
theorem delayHoldsTheLines : Obligations.DelayHoldsTheLines := by
  intro s n k hb ht he hn hk
  rw [runSteps_next (step_micro hb ht (.inl he) hn), runSteps_countdown k (by simpa using hb) (by simp [he]) hk]
  simp [micro, execMicro, opDelay, logEvent, he]

end Sys2Proof.Machine
end

section
/-! SUPPORT. The micro-operations that write lines, line by line (R107, R108, R113). -/

namespace Sys2Proof.Machine

/-- The line at distance `k` from line 8 is data line `Dk` (R21). -/
theorem eq_dataLine {k : Fin 8} {i : Fin 12} (h : i.val + k.val = 8) : i = dataLine k :=
  Fin.ext ((Nat.eq_sub_of_add_eq h).trans (dataLine_val k).symm)

/-- Settles O20: `writeData 0` line by line. -/
theorem clearDrivesDataLow : Obligations.ClearDrivesDataLow := by
  intro s
  refine ⟨writeData 0x00#8 s.lines, rfl, fun k i h => ?_, ?_⟩
  · rw [eq_dataLine h, writeData_dataLine]
    exact BitVec.getLsbD_zero
  · have hc := ctrl_writeData 0x00#8 s.lines
    exact ⟨hc .led, hc .e, hc .rw, hc .rs⟩

/-- Settles O21: `driveHigh` line by line. -/
theorem loadOnlySetsDataLines : Obligations.LoadOnlySetsDataLines := by
  intro s src c hsrc
  have hv : srcValue s.buf src = c := by
    obtain rfl | ⟨i, rfl, hi⟩ := hsrc
    · rfl
    · exact hi
  refine ⟨driveHigh c s.lines, ?_, readData_driveHigh c s.lines, fun k i h => ?_, ?_⟩
  · rw [← readData_driveHigh, ← hv]
    rfl
  · rw [eq_dataLine h, driveHigh_dataLine]
  · have hc := ctrl_driveHigh c s.lines
    exact ⟨hc .led, hc .e, hc .rw, hc .rs⟩

/-- Settles O22: one entry of the line vector is set, and `latchedBySet` says when a word is latched. -/
theorem setWritesOneLine : Obligations.SetWritesOneLine := by
  intro s c b
  refine ⟨s.lines.set (ctrlIndex c) b, latchedBySet c b s.lines, rfl, Vector.getElem_set_self _, fun j hj => ?_,
    fun hfall => if_pos hfall, fun hfall => if_neg hfall⟩
  exact Vector.getElem_set_ne _ _ fun h => hj (Fin.ext h.symm)

end Sys2Proof.Machine
end

section
/-! SUPPORT. The eager run of a whole micro-program in closed form (R111, R112, R114): cycle by cycle, then the four
programs against `Run`. -/

namespace Sys2Proof.Machine

/-- What `Run` says of a command beside a state: its lines, and its events, words and ticks after those there (R114). -/
def applyRun (r : RunResult) (s : State) : State :=
  { s with lines := r.lines, now := s.now + r.ticks, trace := s.trace ++ r.events, latched := s.latched ++ r.words }

/-- CYCLEs that send the codes `cs` one after another (R112). E ends low if there is any. -/
def runCycles (h l : BitVec Config.tmrWidth) (cs : List Byte) (ls : Lines) : RunResult where
  lines  := lineVector (ctrl ls .led) (cs.getLast?.getD (readData ls)) (cs.isEmpty && ctrl ls .e) (ctrl ls .rw)
              (ctrl ls .rs)
  events := cs.flatMap (cycleEvents h l)
  words  := cs.map fun c => { rs := ctrl ls .rs, rw := ctrl ls .rw, data := c }
  ticks  := (h.toNat + l.toNat) * cs.length

/-- The lines after a CYCLE that sends `c` (R112). -/
theorem lines_cycle (c : Byte) (ls : Lines) :
    (driveHigh c (writeData 0x00#8 ls)).set (ctrlIndex .e) false =
      lineVector (ctrl ls .led) c false (ctrl ls .rw) (ctrl ls .rs) := by
  apply lines_ext
  · intro d
    cases d <;> simp [ctrl_set]
  · simp

/-- One CYCLE sends the value of its operand (R112). -/
theorem runMicros_cycle (src : Src) (h l : BitVec Config.tmrWidth) {s : State} (ht : s.tmr = 0#8) :
    runMicros (cycle src h l) s = applyRun (runCycles h l [srcValue s.buf src] s.lines) s := by
  simp [runMicros, runMicro, cycle, pulse, execMicro, opClear, opLoad, opSet, opDelay, logEvent, applyRun, runCycles, ht,
    cycleEvents, lines_cycle, latchedBySet, busWord, ctrl_set, Nat.add_assoc]

/-- No CYCLE does nothing (R112). -/
theorem applyRun_runCycles_nil (h l : BitVec Config.tmrWidth) (s : State) :
    applyRun (runCycles h l [] s.lines) s = s := by
  simp [applyRun, runCycles, ← eq_lineVector]

/-- One CYCLE and then others (R112). -/
theorem applyRun_runCycles_cons (h l : BitVec Config.tmrWidth) (c : Byte) (cs : List Byte) (s : State) :
    applyRun (runCycles h l cs (runCycles h l [c] s.lines).lines) (applyRun (runCycles h l [c] s.lines) s) =
      applyRun (runCycles h l (c :: cs) s.lines) s := by
  simp [applyRun, runCycles, List.getLast?_cons, Nat.mul_add, Nat.add_assoc, Nat.add_comm]

/-- CYCLEs one after another send the values of their operands in order (R112). -/
theorem runMicros_cycles {α : Type} (src : α → Src) (h l : BitVec Config.tmrWidth) (xs : List α) {s : State}
    (ht : s.tmr = 0#8) :
    runMicros (xs.flatMap fun x => cycle (src x) h l) s =
      applyRun (runCycles h l (xs.map fun x => srcValue s.buf (src x)) s.lines) s := by
  induction xs generalizing s with
  | nil => exact (applyRun_runCycles_nil h l s).symm
  | cons x xs ih =>
    rw [List.flatMap_cons, runMicros_append, runMicros_cycle (src x) h l ht, ih (by exact ht)]
    exact applyRun_runCycles_cons h l _ _ s

/-- The command writes of RESET_LCD (R171). -/
theorem runMicros_commandCycles (cs : List Byte) {s : State} (ht : s.tmr = 0#8) :
    runMicros (cs.flatMap commandCycle) s =
      applyRun (runCycles Config.params.tCmdHigh Config.params.tCmdLow cs s.lines) s := by
  refine (runMicros_cycles .const _ _ cs ht).trans ?_
  simp only [srcValue, List.map_id']

/-- The character writes of the two WRITE commands, of entries that hold `cs` (R151). -/
theorem runMicros_characterCycles {is : List (Fin Config.bufDepth)} {cs : List Byte} {s : State}
    (hcs : is.map (s.buf[·]) = cs) (ht : s.tmr = 0#8) :
    runMicros (is.flatMap characterCycle) s =
      applyRun (runCycles Config.params.tChrHigh Config.params.tChrLow cs s.lines) s :=
  hcs ▸ runMicros_cycles .buf _ _ is ht

/-- CLEAR_DATA_BITS (R141). -/
theorem runMicros_progClearDataBits {s : State} (ht : s.tmr = 0#8) :
    runMicros progClearDataBits s = applyRun (runClearDataBits s.lines) s := by
  have hl : writeData 0x00#8 s.lines = (runClearDataBits s.lines).lines := by
    refine (eq_lineVector _).trans ?_
    simp [runClearDataBits]
  simp [runMicros, runMicro, progClearDataBits, execMicro, opClear, logEvent, applyRun, hl, ht, runClearDataBits]

@[simp] theorem set_led_lineVector (b led : Bool) (d : Byte) (e rw rs : Bool) :
    (lineVector led d e rw rs).set (ctrlIndex .led) b = lineVector b d e rw rs := rfl

@[simp] theorem set_rs_lineVector (b led : Bool) (d : Byte) (e rw rs : Bool) :
    (lineVector led d e rw rs).set (ctrlIndex .rs) b = lineVector led d e rw b := rfl

/-- RESET_LCD, whatever the lines held before it (R172, R178). -/
theorem runMicros_progResetLcd (c : Config.CmdBytes) {s : State} (ht : s.tmr = 0#8) :
    runMicros (progResetLcd c) s = applyRun (runResetLcd c) s := by
  have hevents : cycleEvents Config.params.tCmdHigh Config.params.tCmdLow = commandEvents := rfl
  have hticks : Config.params.tSettle.toNat + (Config.params.tCmdHigh.toNat + Config.params.tCmdLow.toNat) * 4 = 13 :=
    rfl
  rw [progResetLcd, runMicros_append, runMicros_append, runMicros_commandCycles _ rfl]
  simp [runMicros, runMicro, execMicro, applyRun, runCycles, opSet, opDelay, logEvent, latchedBySet, ht, ctrl_set,
    runResetLcd, initBytes_eq, hevents, Nat.add_assoc, hticks]

/-- Entries that hold the codes `cs`, read in order, give `cs` (R74, R151). -/
theorem map_bufIndices_eq {b : Buf} {cs : List Byte} (hl : cs.length ≤ 16)
    (hb : ∀ (j : Fin Config.bufDepth) (h : j.val < cs.length), b[j] = cs[j.val]) :
    (bufIndices cs.length).map (b[·]) = cs := by
  refine List.ext_getElem (by simp [length_bufIndices hl]) fun j _ hj => ?_
  simpa [bufIndices] using hb ⟨j, Nat.lt_of_lt_of_le hj hl⟩ hj

/-- The character protocol sends the codes BUF holds, E being low before it (R153, R162). -/
theorem runMicros_characterProgram {cs : List Byte} {s : State} (hl : cs.length ≤ 16)
    (hb : ∀ (j : Fin Config.bufDepth) (h : j.val < cs.length), s.buf[j] = cs[j.val]) (ht : s.tmr = 0#8)
    (he : ctrl s.lines .e = false) :
    runMicros (characterProgram cs.length) s = applyRun (runCharacters cs s.lines) s := by
  have hevents : cycleEvents Config.params.tChrHigh Config.params.tChrLow = characterEvents := rfl
  have hticks : Config.params.tChrHigh.toNat + Config.params.tChrLow.toNat = 30 := rfl
  rw [characterProgram, runMicros_append, runMicros_append,
    runMicros_characterCycles (map_bufIndices_eq hl ?entries) rfl]
  case entries => exact hb
  simp [runMicros, runMicro, execMicro, applyRun, runCycles, opSet, logEvent, latchedBySet, ht, ctrl_set,
    runCharacters, he, hevents, hticks]

/-- The micro-program of an issued command does what `Run` says of it (R114). -/
theorem runMicros_issued (i : Instr) {s : State} (ht : s.tmr = 0#8) (he : ctrl s.lines .e = false) :
    runMicros (currentProg (issued i s)) (issued i s) = applyRun (run i s.lines) (issued i s) := by
  cases i with
  | resetLcd => exact runMicros_progResetLcd _ (by exact ht)
  | clearDataBits => exact runMicros_progClearDataBits (by exact ht)
  | writeString cs =>
    have hlen : (lengthOperand cs).toNat = min cs.length 255 := lengthOperand_toNat cs
    show runMicros (prog .writeString (lengthOperand cs)) _ = _
    by_cases hcs : cs.length ≤ 16
    · rw [prog_writeString_transmits (by omega), show (lengthOperand cs).toNat = cs.length by omega,
        show run (.writeString cs) s.lines = runCharacters cs s.lines from if_pos hcs]
      refine runMicros_characterProgram hcs (fun j hj => ?_) (by exact ht) (by exact he)
      exact (stringBuf_getElem cs s.buf j).trans (by simp [hcs, hj])
    · rw [prog_writeString_dropped (by omega),
        show run (.writeString cs) s.lines = runNothing s.lines from if_neg hcs]
      simp only [applyRun, runNothing, Nat.add_zero, List.append_nil]
      rfl
  | writeCharArray a =>
    have hlen : a.toList.length = 5 := a.length_toList
    show runMicros (characterProgram 5) _ = applyRun (runCharacters a.toList s.lines) _
    rw [← hlen]
    refine runMicros_characterProgram (by omega) (fun j hj => ?_) (by exact ht) (by exact he)
    exact (arrayBuf_getElem a s.buf j).trans (by simp [hlen ▸ hj])

theorem listTicks_cons (m : MicroOp) (ms : List MicroOp) : listTicks (m :: ms) = opTicks m + listTicks ms :=
  List.sum_cons

/-- Each micro-operation takes the ticks it asks for (R251). -/
theorem runMicros_now (ms : List MicroOp) {s : State} (ht : s.tmr = 0#8) :
    (runMicros ms s).now = s.now + listTicks ms := by
  induction ms generalizing s with
  | nil => rfl
  | cons m ms ih =>
    rw [runMicros_cons, ih rfl, listTicks_cons, ← Nat.add_assoc, ← execMicro_tmr_toNat m ht, ← execMicro_now m s]
    rfl

/-- Each micro-operation logs one event (R103). -/
theorem runMicros_trace_length (ms : List MicroOp) (s : State) :
    (runMicros ms s).trace.length = s.trace.length + ms.length := by
  induction ms generalizing s with
  | nil => rfl
  | cons m ms ih =>
    obtain ⟨ev, hev⟩ := execMicro_trace m s
    rw [runMicros_cons, ih, show (runMicro s m).trace = s.trace ++ [ev] from hev, List.length_append,
      List.length_singleton, List.length_cons]
    omega

section Issued

variable {s : State} (ht : s.tmr = 0#8) (he : ctrl s.lines .e = false)

include ht he

/-- `Run` has one event for each micro-operation of the program (R103, R114). -/
theorem run_events_length (i : Instr) : (run i s.lines).events.length = (currentProg (issued i s)).length := by
  have h := runMicros_trace_length (currentProg (issued i s)) (issued i s)
  rw [runMicros_issued i ht he] at h
  simpa [applyRun] using h

/-- `Run` has the ticks the DELAYs of the program ask for (R114, R251). -/
theorem run_ticks (i : Instr) : (run i s.lines).ticks = listTicks (currentProg (issued i s)) := by
  have h := runMicros_now (currentProg (issued i s)) (s := issued i s) ht
  rw [runMicros_issued i ht he] at h
  exact Nat.add_left_cancel h

end Issued

end Sys2Proof.Machine
end

section
/-! SUPPORT. An issued command under the eager schedule: as many steps as `Run` has events and ticks, and DONE (R106,
R114). -/

namespace Sys2Proof.Machine

/-- The whole micro-program of a command under the eager schedule (R106, R114). -/
theorem runSteps_issued (i : Instr) {s : State} (ht : s.tmr = 0#8) (henv : s.env = [])
    (he : ctrl s.lines .e = false) :
    runSteps ((run i s.lines).events.length + (run i s.lines).ticks) (issued i s) =
      .next { applyRun (run i s.lines) (issued i s) with
        upc := BitVec.ofNat Config.upcWidth (run i s.lines).events.length } := by
  have hrest : (currentProg (issued i s)).drop (issued i s).upc.toNat = currentProg (issued i s) ++ [] :=
    (List.append_nil _).symm
  rw [← runMicros_issued i ht he, run_events_length ht he i, run_ticks ht he i,
    runSteps_list (s := issued i s) _ [] rfl ht henv hrest, show (issued i s).upc = 0#7 from rfl, BitVec.zero_add]

/-- DONE under the eager schedule (R104, R106). -/
theorem runSteps_done {s : State} (hb : s.busy = true) (ht : s.tmr = 0#8) (henv : s.env = [])
    (hu : s.upc.toNat = (currentProg s).length) : runSteps 1 s = .next { s with busy := false } := by
  rw [runSteps_next (n := 0) (step_done hb ht (.inl henv) hu), runSteps_zero, done, henv, List.tail_nil, ← henv]

/-- Settles O36: the micro-program has run, and DONE follows. -/
theorem eagerRunEqualsBigStep : Obligations.EagerRunEqualsBigStep := by
  rintro i s t ⟨hb, ht, henv, he⟩ h
  rw [exec_idle i hb] at h
  cases h
  rw [eagerSteps, runSteps_add _ _ (runSteps_issued i ht henv he),
    runSteps_done (by exact rfl) (by exact ht) (by exact henv) ?upc]
  case upc =>
    show (BitVec.ofNat 7 _).toNat = (currentProg (issued i s)).length
    rw [run_events_length ht he i, BitVec.toNat_ofNat]
    exact Nat.mod_eq_of_lt (prog_length_lt _ _)
  have hti : (issued i s).tmr = 0#8 := ht
  simp only [afterRun, applyRun, hti]

end Sys2Proof.Machine
end

section
/-! SUPPORT. An issued command under any script of the environment's moves without a hardware reset: every state of the
run shows what the micro-operations executed so far do (R106, R114). -/

namespace Sys2Proof.Machine

/-- `u` shows the lines, TRACE and LATCHED that `r` shows, and holds the same operands. -/
structure SameEffects (u r : State) : Prop where
  lines   : u.lines = r.lines
  buf     : u.buf = r.buf
  trace   : u.trace = r.trace
  latched : u.latched = r.latched

/-- What a micro-operation does depends on nothing but what `SameEffects` compares. -/
theorem SameEffects.micro {u r : State} (h : SameEffects u r) (m : MicroOp) :
    SameEffects (micro m u) (runMicro r m) where
  lines := by cases m <;> simp [runMicro, execMicro, h.lines, h.buf]
  buf := by simpa [runMicro] using h.buf
  trace := by cases m <;> simp [runMicro, execMicro, h.lines, h.buf, h.trace]
  latched := by cases m <;> simp [runMicro, execMicro, h.lines, h.latched]

/-- `u` is a state of the run of the command issued in `t`, under whatever schedule: it shows what the micro-operations
executed so far do, no sooner than they can, and BUSY = 0 only past the last of them. -/
structure Tracks (t u : State) : Prop where
  port    : u.port = []
  op      : u.op = t.op
  len     : u.len = t.len
  upc     : u.upc.toNat ≤ (currentProg u).length
  effects : SameEffects u (runMicros (executed u) t)
  now     : t.now + listTicks (executed u) ≤ u.now + u.tmr.toNat
  idle    : u.busy = false → u.upc.toNat = (currentProg u).length ∧ u.tmr = 0#8

namespace Tracks

variable {t u : State}

/-- A command is tracked from its issue, whatever moves are to come. -/
theorem of_issued (i : Instr) {s : State} (hp : s.port = []) (moves : List EnvMove) :
    Tracks (issued i s) { issued i s with env := moves } where
  port := hp
  op := rfl
  len := rfl
  upc := Nat.zero_le _
  effects := ⟨rfl, rfl, rfl, rfl⟩
  now := Nat.le_add_right _ _
  idle h := by cases h

theorem withEnv (h : Tracks t u) (env : List EnvMove) : Tracks t { u with env := env } :=
  ⟨h.port, h.op, h.len, h.upc, { h.effects with }, h.now, h.idle⟩

theorem tick (h : Tracks t u) : Tracks t (tick u) where
  port := h.port
  op := h.op
  len := h.len
  upc := h.upc
  effects := { h.effects with }
  now := h.now.trans (tick_now_add_tmr_le u)
  idle hb := by
    obtain ⟨hu, ht⟩ := h.idle hb
    exact ⟨hu, by simp [ht]⟩

theorem done (h : Tracks t u) (ht : u.tmr = 0#8) (hu : u.upc.toNat = (currentProg u).length) : Tracks t (done u) where
  port := h.port
  op := h.op
  len := h.len
  upc := h.upc
  effects := { h.effects with }
  now := h.now
  idle _ := ⟨hu, ht⟩

theorem micro (h : Tracks t u) (hb : u.busy = true) (ht : u.tmr = 0#8) {m : MicroOp} (hn : nextMicro u = some m) :
    Tracks t (micro m u) where
  port := by simpa using h.port
  op := by simpa using h.op
  len := by simpa using h.len
  upc := by
    rw [micro_upc, upc_succ_toNat hn, currentProg_micro]
    exact nextMicro_lt hn
  effects := by
    rw [executed_micro hn, runMicros_append]
    exact h.effects.micro m
  now := by
    have hnow := h.now
    have h0 : u.tmr.toNat = 0 := congrArg BitVec.toNat ht
    have hm : listTicks [m] = opTicks m := listTicks_cons m []
    rw [executed_micro hn, listTicks_append, hm, micro_now, execMicro_now, micro_tmr, execMicro_tmr_toNat m ht]
    omega
  idle hi := by simp [hb] at hi

theorem sequencerStep (h : Tracks t u) (hb : u.busy = true) : Tracks t (sequencerStep u) := by
  obtain ⟨-, hs⟩ | ⟨ht, m, hn, hs⟩ | ⟨ht, hu, hs⟩ | ⟨-, -, hs⟩ := sequencerStep_cases u <;> rw [hs]
  · exact h.tick
  · exact h.micro hb ht hn
  · exact h.done ht hu
  · exact h.tick

/-- Every step but a hardware reset goes on with the run. -/
theorem step (h : Tracks t u) (hr : NoResetNow u) {v : State} (hs : step u = .next v) : Tracks t v := by
  obtain ⟨rest, he, -⟩ | ⟨rest, -, rfl⟩ | ⟨-, hb, rfl⟩ | ⟨-, -, -, rfl⟩ | ⟨-, -, i, rest, hd, -⟩ := step_cases hs
  · exact absurd (by rw [he]; rfl) hr
  · exact (h.withEnv _).tick
  · exact (h.withEnv _).sequencerStep hb
  · exact (h.withEnv _).tick
  · rw [h.port] at hd
    cases hd

/-- At BUSY = 0 the whole micro-program has executed. -/
theorem executed_idle (h : Tracks t u) (hb : u.busy = false) : executed u = currentProg t := by
  obtain ⟨hu, -⟩ := h.idle hb
  rw [executed, hu, List.take_length, currentProg, h.op, h.len]
  rfl

end Tracks

/-- Settles O37: every step keeps `Tracks`, and at BUSY = 0 the tracked micro-operations are the whole program. -/
theorem everyScheduleGivesRun : Obligations.EveryScheduleGivesRun := by
  rintro i s t u moves n ⟨hb, ht, -, he⟩ hp hmoves h hrun hidle
  rw [exec_idle i hb] at h
  cases h
  have htr : Tracks (issued i s) u :=
    runSteps_keeps (fun _ _ h hr hs => h.step hr hs) hrun hmoves (.of_issued i hp moves)
  obtain ⟨hlines, -, htrace, hlatched⟩ := htr.effects
  have hnow := htr.now
  obtain ⟨-, htmr⟩ := htr.idle hidle
  rw [htr.executed_idle hidle, runMicros_issued i ht he] at hlines htrace hlatched
  rw [htr.executed_idle hidle, ← run_ticks ht he, htmr] at hnow
  exact ⟨hlines, htrace, hlatched, hnow⟩

end Sys2Proof.Machine
end

section
/-! SUPPORT. An issued command comes to DONE: each step uses up a move of the environment, a tick, a micro-operation or
DONE itself (R106, R115, R120). -/

namespace Sys2Proof.Machine

/-- The micro-operations the command in progress has yet to execute. -/
def remaining (u : State) : List MicroOp := (currentProg u).drop u.upc.toNat

/-- A bound on the steps before BUSY = 0 under the eager schedule: the ticks of the present DELAY, the micro-operations
left with their ticks, and DONE (R106, R115). -/
def stepsLeft (u : State) : Nat :=
  u.tmr.toNat + (remaining u).length + listTicks (remaining u) + u.busy.toNat

theorem remaining_micro {u : State} {m : MicroOp} (h : nextMicro u = some m) :
    remaining u = m :: remaining (micro m u) := by
  obtain ⟨hlt, hm⟩ := List.getElem?_eq_some_iff.1 h
  rw [remaining, remaining, currentProg_micro, micro_upc, upc_succ_toNat h, List.drop_eq_getElem_cons hlt, hm]

/-- A TICK takes one from the steps left exactly when TMR does (R105). -/
theorem stepsLeft_tick (u : State) : stepsLeft (tick u) = stepsLeft u - (u.tmr.toNat - (u.tmr.toNat - 1)) := by
  rw [stepsLeft, stepsLeft, tick_tmr_toNat, tick_busy, show remaining (tick u) = remaining u from rfl]
  omega

/-- Each step of a busy block brings DONE nearer (R106, R115). -/
theorem stepsLeft_sequencerStep_lt {u : State} (hb : u.busy = true) (hu : u.upc.toNat ≤ (currentProg u).length) :
    stepsLeft (sequencerStep u) < stepsLeft u := by
  obtain ⟨ht, hs⟩ | ⟨ht, m, hn, hs⟩ | ⟨-, -, hs⟩ | ⟨-, hpast, -⟩ := sequencerStep_cases u
  · obtain ⟨-, hpos⟩ := tmr_pred u.tmr ht
    rw [hs, stepsLeft_tick, stepsLeft]
    omega
  · rw [hs, stepsLeft, stepsLeft, remaining_micro hn, micro_tmr, execMicro_tmr_toNat m ht, micro_busy, execMicro_busy,
      List.length_cons, listTicks_cons]
    omega
  · rw [hs, stepsLeft, stepsLeft, hb]
    exact Nat.lt_succ_self _
  · omega

namespace Tracks

variable {t u : State}

/-- A tracked run always has a next step, because nothing is pending that could be refused. -/
theorem exists_next (h : Tracks t u) : ∃ v, Machine.step u = .next v := by
  obtain hv | ⟨-, -, why, hwhy, hd, -⟩ := onlyRefusedFramesStop u
  · exact hv
  · rw [h.port] at hd
    cases hd
    exact absurd rfl hwhy

/-- A step to a busy block starts from one, and makes a move of the environment or brings DONE nearer. -/
theorem step_progress (h : Tracks t u) (hr : NoResetNow u) {v : State} (hs : Machine.step u = .next v)
    (hv : v.busy = true) : u.busy = true ∧ v.env.length + stepsLeft v < u.env.length + stepsLeft u := by
  have henv : v.env.length = u.env.length - 1 := by rw [step_env hs, List.length_tail]
  obtain ⟨rest, he, -⟩ | ⟨rest, he, rfl⟩ | ⟨-, hb, rfl⟩ | ⟨-, hb, -, rfl⟩ | ⟨-, -, i, rest, hd, -⟩ := step_cases hs
  · exact absurd (by rw [he]; rfl) hr
  · have htick := stepsLeft_tick { u with env := rest }
    have hsame : stepsLeft { u with env := rest } = stepsLeft u := rfl
    have hpos : 0 < u.env.length := he ▸ Nat.succ_pos _
    exact ⟨hv, by omega⟩
  · have hlt := stepsLeft_sequencerStep_lt (u := { u with env := u.env.tail }) hb h.upc
    have hsame : stepsLeft { u with env := u.env.tail } = stepsLeft u := rfl
    exact ⟨hb, by omega⟩
  · exact absurd (hb.symm.trans hv) Bool.noConfusion
  · rw [h.port] at hd
    cases hd

/-- A tracked run is idle after as many steps as the environment has moves and `stepsLeft` counts. -/
theorem exists_idle (h : Tracks t u) (hr : NoReset u) {n : Nat} (hn : u.busy = true → u.env.length + stepsLeft u ≤ n) :
    ∃ v, runSteps n u = .next v ∧ v.busy = false := by
  induction n generalizing u with
  | zero =>
    refine ⟨u, rfl, Bool.eq_false_iff.2 fun hb => ?_⟩
    have h0 := hn hb
    rw [stepsLeft, hb] at h0
    exact absurd h0 (Nat.not_succ_le_zero _)
  | succ n ih =>
    obtain ⟨v, hs⟩ := h.exists_next
    rw [runSteps_next hs]
    refine ih (h.step hr.noResetNow hs) (hr.step hs) fun hv => ?_
    obtain ⟨hb, hlt⟩ := h.step_progress hr.noResetNow hs hv
    exact Nat.le_of_lt_succ (hlt.trans_le (hn hb))

end Tracks

/-- The steps the sequencer takes from ISSUE to DONE are those of R120. -/
theorem stepsLeft_issued (i : Instr) {s : State} (ht : s.tmr = 0#8) (he : ctrl s.lines .e = false) :
    stepsLeft (issued i s) = eagerSteps i s.lines := by
  have htmr : (issued i s).tmr.toNat = 0 := congrArg BitVec.toNat ht
  have hrem : remaining (issued i s) = currentProg (issued i s) := rfl
  rw [stepsLeft, eagerSteps, run_events_length ht he, run_ticks ht he, htmr, hrem, Nat.zero_add]
  rfl

/-- Settles O38: the moves and the steps left run out, and at issue they are the bound. -/
theorem everyCommandTerminates : Obligations.EveryCommandTerminates := by
  rintro i s t moves ⟨hb, ht, -, he⟩ hp hmoves h
  rw [exec_idle i hb] at h
  cases h
  rw [← stepsLeft_issued i ht he]
  exact (Tracks.of_issued i hp moves).exists_idle hmoves fun _ => Nat.le_refl _

end Sys2Proof.Machine
end

section
/-! SUPPORT. The Bit Encoder as a reading of the code: each element a mask and a bit, all of them the code (R130 to
R132). -/

namespace Sys2Proof.Machine

/-- `Enc(c)[k]` is `(c & (1 << k)) != 0` (R130). -/
theorem enc_getElem_eq_masked (c : Byte) (k : Fin Config.dataWidth) :
    (enc c)[k] = ((c &&& (1#8 <<< k.val)) != 0#8) := by
  rw [enc, Fin.getElem_fin, Vector.getElem_ofFn, mask_eq]

/-- Bit `k` of `c` is what `(c >> k) & 1` tests (R131). -/
theorem shiftRight_and_one_eq_one_iff (c : Byte) (k : Nat) : (c >>> k) &&& 1#8 = 1#8 ↔ c.getLsbD k = true := by
  rw [BitVec.and_one_eq_setWidth_ofBool_getLsbD, BitVec.getLsbD_ushiftRight, Nat.add_zero]
  cases c.getLsbD k <;> decide

/-- A number with given bits is the sum of the powers of two at those that are set. -/
theorem ofBits_eq_sum {n : Nat} (f : Fin n → Bool) :
    Nat.ofBits f = ((List.finRange n).map fun k => if f k then 2 ^ k.val else 0).sum := by
  induction n with
  | zero => rfl
  | succ n ih =>
    have hdouble : ∀ k : Fin n, (if f k.succ then 2 ^ k.succ.val else 0) = 2 * if f k.succ then 2 ^ k.val else 0 :=
      fun k => by rw [Fin.val_succ, Nat.pow_succ', mul_ite, Nat.mul_zero]
    have hlow : (f 0).toNat = if f 0 then 2 ^ (0 : Fin (n + 1)).val else 0 := by cases f 0 <;> rfl
    rw [Nat.ofBits_succ, ih, List.finRange_succ, List.map_cons, List.map_map, List.sum_cons, hlow, Nat.add_comm,
      ← List.sum_map_mul_left]
    exact congrArg (_ + List.sum ·) (List.map_congr_left fun k _ => (hdouble k).symm)

/-- The elements of `Enc(c)`, read as bits, are `c` (R131). -/
theorem ofFnLE_enc (c : Byte) : BitVec.ofFnLE (fun k => (enc c)[k]) = c := by
  apply BitVec.eq_of_getLsbD_eq
  intro i hi
  rw [BitVec.getLsbD_ofFnLE, dif_pos hi, enc_getElem]

/-- Different codes are encoded differently (R131). -/
theorem enc_injective : Function.Injective enc := fun c d h => by rw [← ofFnLE_enc c, h, ofFnLE_enc d]

/-- Settles O26: each element is a mask and a bit, and the bits of `c` determine it and sum to it. -/
theorem encoderSpellsTheCode : Obligations.EncoderSpellsTheCode := by
  refine ⟨fun c k => ⟨enc_getElem_eq_masked c k, ?_⟩, enc_injective, fun c => ?_⟩
  · rw [enc_getElem, shiftRight_and_one_eq_one_iff]
  · rw [← ofBits_eq_sum, ← BitVec.toNat_ofFnLE]
    exact congrArg BitVec.toNat (ofFnLE_enc c).symm

/-- Settles O27: after CLEAR DATA is 0, LOAD makes it `0 | c`, and each data line is a bit of DATA. -/
theorem clearThenLoadSpellsTheCode : Obligations.ClearThenLoadSpellsTheCode := by
  intro s c
  have hdata : readData (execMicro (.load (.const c)) (execMicro .clear s)).lines = c := by
    show readData (driveHigh c (writeData 0x00#8 s.lines)) = c
    rw [readData_driveHigh, readData_writeData, BitVec.zero_or]
  refine ⟨hdata, fun k i h => ?_⟩
  rw [eq_dataLine h, ← readData_getLsbD, hdata]

end Sys2Proof.Machine
end

section
/-! SUPPORT. CLEAR_DATA_BITS from its ISSUE to BUSY = 0, whatever the lines: one MICRO and DONE (R106, R140, R141). -/

namespace Sys2Proof.Machine

/-- CLEAR is followed by no tick (R106, R107). -/
theorem runMicro_clear {s : State} (ht : s.tmr = 0#8) : runMicro s .clear = execMicro .clear s := by
  simp [runMicro, execMicro, opClear, logEvent, ht]

/-- The one MICRO of an issued CLEAR_DATA_BITS (R103, R140). -/
theorem runSteps_issued_clearDataBits {s : State} (ht : s.tmr = 0#8) (henv : s.env = []) :
    runSteps 1 (issued .clearDataBits s) = .next { execMicro .clear (issued .clearDataBits s) with upc := 1#7 } := by
  have hti : (issued .clearDataBits s).tmr = 0#8 := ht
  have hmicro := runSteps_micro (s := issued .clearDataBits s) (m := .clear) rfl hti henv rfl
  rwa [runMicro_clear hti] at hmicro

/-- Settles O33: the lines are those CLEAR leaves, and DONE follows the one MICRO. -/
theorem clearDataBitsCompletes : Obligations.ClearDataBitsCompletes := by
  intro s hb ht henv
  obtain ⟨l, hclear, hlines⟩ := clearDrivesDataLow (issued .clearDataBits s)
  refine ⟨issued .clearDataBits s, l, exec_idle .clearDataBits hb, ?_, hlines⟩
  rw [runSteps_add 1 1 (runSteps_issued_clearDataBits ht henv), hclear,
    runSteps_done (by exact rfl) (by exact ht) (by exact henv) (by exact rfl), ← hb]
  rfl

end Sys2Proof.Machine
end

section
/-! SUPPORT. WRITE_STRING from its ISSUE to BUSY = 0, on both sides of the length guard (R150 to R153). -/

namespace Sys2Proof.Machine

/-- The character protocol logs four events around the six of each code (R153). -/
theorem runCharacters_events_length (cs : List Byte) (ls : Lines) :
    (runCharacters cs ls).events.length = 4 + 6 * cs.length := by
  have hcycles : (cs.flatMap characterEvents).length = 6 * cs.length := by
    simp [List.length_flatMap, characterEvents, cycleEvents, Nat.mul_comm]
  simp only [runCharacters, List.length_append, hcycles, List.length_cons, List.length_nil]
  omega

/-- The last code sent stays on DATA, which an empty string leaves alone (R153). -/
theorem runCharacters_lines (cs : List Byte) (ls : Lines) : (runCharacters cs ls).lines =
    lineVector false (if h : cs = [] then readData ls else cs.getLast h) false (ctrl ls .rw) false := by
  by_cases h : cs = []
  · simp [runCharacters, h]
  · simp [runCharacters, h, List.getLast?_eq_some_getLast h]

/-- Within the length guard WRITE_STRING is the character protocol (R150, R151). -/
theorem run_writeString_transmits {cs : List Byte} (h : cs.length ≤ 16) (ls : Lines) :
    run (.writeString cs) ls = runCharacters cs ls := if_pos h

/-- Beyond it WRITE_STRING does nothing (R150, R152). -/
theorem run_writeString_dropped {cs : List Byte} (h : 16 < cs.length) (ls : Lines) :
    run (.writeString cs) ls = runNothing ls := if_neg (Nat.not_le.2 h)

/-- `4 + 6 L` micro-operations, `30 L` ticks and DONE (R153). -/
theorem eagerSteps_writeString_transmits {cs : List Byte} (h : cs.length ≤ 16) (ls : Lines) :
    eagerSteps (.writeString cs) ls = 36 * cs.length + 5 := by
  have hticks : (runCharacters cs ls).ticks = 30 * cs.length := rfl
  rw [eagerSteps, run_writeString_transmits h, runCharacters_events_length, hticks]
  omega

/-- DONE alone (R152). -/
theorem eagerSteps_writeString_dropped {cs : List Byte} (h : 16 < cs.length) (ls : Lines) :
    eagerSteps (.writeString cs) ls = 1 := by
  rw [eagerSteps, run_writeString_dropped h]
  rfl

/-- Settles O34: the eager run of an issued command is `Run`'s, and `Run` of WRITE_STRING is the character protocol or
nothing. -/
theorem writeStringCompletes : Obligations.WriteStringCompletes := by
  intro s cs hs
  have hexec := exec_idle (.writeString cs) hs.busy
  have hrun := eagerRunEqualsBigStep (.writeString cs) s _ hs hexec
  refine ⟨fun h => ⟨_, stringBuf cs s.buf, hexec, ?_, fun j => ?_⟩, fun h => ⟨_, hexec, ?_⟩⟩
  · have hlen : issuedLen (.writeString cs) s = BitVec.ofNat 8 cs.length :=
      congrArg (BitVec.ofNat 8) (Nat.min_eq_left (show cs.length ≤ 255 by omega))
    rw [eagerSteps_writeString_transmits h] at hrun
    rw [hrun]
    simp only [afterRun, run_writeString_transmits h, runCharacters_events_length, runCharacters_lines, issued, hlen,
      hs.busy, hs.tmr]
    rfl
  · rw [stringBuf_getElem, if_pos h]
  · have hbuf : issuedBuf (.writeString cs) s = s.buf := if_neg (Nat.not_le.2 h)
    rw [eagerSteps_writeString_dropped h] at hrun
    rw [hrun]
    simp only [afterRun, run_writeString_dropped h, runNothing, Nat.add_zero, List.append_nil, issued, hbuf, hs.busy,
      hs.tmr]
    rfl

end Sys2Proof.Machine
end

section
/-! SUPPORT. A string's run up to the instant before the display latches its code number `i` (R38, R151, R154). -/

namespace Sys2Proof.Machine

/-- The micro-operations of the character protocol before the `SET E 0` of entry `i` (R151, R154). -/
def progBeforeLatch (i : Fin Config.bufDepth) : List MicroOp :=
  [.set .led true, .set .rs true] ++ (bufIndices i.val).flatMap characterCycle ++
    [.clear, .load (.buf i), .set .e true, .delay Config.params.tChrHigh]

/-- What they do when the entries before `i` hold `cs` and entry `i` holds `c`: `cs` has been sent, and `c` stands on DATA
with E high (R153, R154). -/
def runBeforeLatch (cs : List Byte) (c : Byte) (ls : Lines) : RunResult where
  lines  := lineVector true c true (ctrl ls .rw) true
  events := [.set .led true, .set .rs true] ++ cs.flatMap characterEvents ++
    [.data 0x00#8, .data c, .set .e true, .wait Config.params.tChrHigh]
  words  := cs.map fun d => { rs := true, rw := ctrl ls .rw, data := d }
  ticks  := 30 * cs.length + 10

/-- The indices before `i` come first, then `i` itself (R54). -/
theorem bufIndices_split {i : Fin Config.bufDepth} {n : Nat} (h : i.val < n) :
    bufIndices n = bufIndices i.val ++ i :: (bufIndices n).drop (i.val + 1) := by
  have hi : i.val < (bufIndices n).length := by simp [bufIndices, h]
  have htake : (bufIndices n).take i.val = bufIndices i.val := by
    rw [bufIndices, bufIndices, List.take_take, Nat.min_eq_left (Nat.le_of_lt h)]
  have hget : (bufIndices n)[i.val] = i := by simp [bufIndices]
  have hdrop := List.drop_eq_getElem_cons hi
  rw [hget] at hdrop
  rw [← htake, ← hdrop, List.take_append_drop]

/-- The `SET E 0` of entry `i` stands right after `progBeforeLatch i` (R151). -/
theorem characterProgram_eq_progBeforeLatch_append {i : Fin Config.bufDepth} {n : Nat} (h : i.val < n) :
    ∃ rest, characterProgram n = progBeforeLatch i ++ .set .e false :: rest := by
  rw [characterProgram, bufIndices_split h, List.flatMap_append, List.flatMap_cons]
  simp only [progBeforeLatch, characterCycle, cycle, pulse, List.append_assoc, List.cons_append, List.nil_append]
  exact ⟨_, rfl⟩

theorem listTicks_flatMap {α : Type} (f : α → List MicroOp) (xs : List α) :
    listTicks (xs.flatMap f) = (xs.map fun x => listTicks (f x)).sum := by
  simp [listTicks, List.flatMap, List.sum_flatten, Function.comp_def]

theorem length_progBeforeLatch (i : Fin Config.bufDepth) : (progBeforeLatch i).length = 6 * i.val + 6 := by
  have hi : i.val ≤ 16 := Nat.le_of_lt i.isLt
  have hcycles : ((bufIndices i.val).flatMap characterCycle).length = 6 * i.val := by
    simp [List.length_flatMap, characterCycle, length_cycle, length_bufIndices hi, Nat.mul_comm]
  rw [progBeforeLatch, List.length_append, List.length_append, hcycles]
  exact congrArg (· + 4) (Nat.add_comm 2 _)

theorem listTicks_progBeforeLatch (i : Fin Config.bufDepth) : listTicks (progBeforeLatch i) = 30 * i.val + 10 := by
  have hi : i.val ≤ 16 := Nat.le_of_lt i.isLt
  have hcycle : ∀ j, listTicks (characterCycle j) = 30 := fun _ => rfl
  have hcycles : listTicks ((bufIndices i.val).flatMap characterCycle) = 30 * i.val := by
    simp [listTicks_flatMap, hcycle, length_bufIndices hi, Nat.mul_comm]
  rw [progBeforeLatch, listTicks_append, listTicks_append, hcycles]
  exact congrArg (· + 10) (Nat.zero_add _)

/-- The lines when E has risen on the code `c` (R112). -/
theorem lines_enableHigh (c : Byte) (ls : Lines) :
    (driveHigh c (writeData 0x00#8 ls)).set (ctrlIndex .e) true =
      lineVector (ctrl ls .led) c true (ctrl ls .rw) (ctrl ls .rs) := by
  apply lines_ext
  · intro d
    cases d <;> simp [ctrl_set]
  · simp

/-- The run up to a latch, whatever the lines before it (R153, R154). -/
theorem runMicros_progBeforeLatch {i : Fin Config.bufDepth} {cs : List Byte} {s : State}
    (hcs : (bufIndices i.val).map (s.buf[·]) = cs) (ht : s.tmr = 0#8) :
    runMicros (progBeforeLatch i) s = applyRun (runBeforeLatch cs s.buf[i] s.lines) s := by
  have hevents : cycleEvents Config.params.tChrHigh Config.params.tChrLow = characterEvents := rfl
  have hhigh : Config.params.tChrHigh.toNat = 10 := rfl
  have hlow : Config.params.tChrLow.toNat = 20 := rfl
  rw [progBeforeLatch, runMicros_append, runMicros_append, runMicros_characterCycles ?entries rfl]
  case entries => exact hcs
  simp [runMicros, runMicro, execMicro, applyRun, runCycles, opSet, opClear, opLoad, opDelay, logEvent, latchedBySet, ht,
    ctrl_set, runBeforeLatch, hevents, hhigh, hlow, lines_enableHigh, srcValue, Nat.add_assoc]

/-- The state of an issued string right before its code number `i`, which is `c`, is latched (R154). -/
def beforeLatch (cs : List Byte) (i : Nat) (c : Byte) (s : State) : State :=
  { applyRun (runBeforeLatch (cs.take i) c s.lines) (issued (.writeString cs) s) with
    upc := BitVec.ofNat Config.upcWidth (6 * i + 6) }

section Latch

variable {s : State} {cs : List Byte} {i : Fin Config.bufDepth} (hi : i.val < cs.length) (hl : cs.length ≤ 16)

include hi hl

/-- A string within the length guard runs the character protocol, and `SET E 0` of entry `i` is in it (R150, R151). -/
theorem currentProg_issued_eq_progBeforeLatch_append (s : State) :
    ∃ rest, currentProg (issued (.writeString cs) s) = progBeforeLatch i ++ .set .e false :: rest := by
  have hlen : (lengthOperand cs).toNat = cs.length := (lengthOperand_toNat cs).trans (Nat.min_eq_left (by omega))
  have hprog : currentProg (issued (.writeString cs) s) = characterProgram (lengthOperand cs).toNat :=
    prog_writeString_transmits (hlen.trans_le hl)
  rw [hprog, hlen]
  exact characterProgram_eq_progBeforeLatch_append hi

/-- The micro-operations before the latch of code number `i` send the codes before it (R153, R154). -/
theorem runMicros_progBeforeLatch_issued (ht : s.tmr = 0#8) :
    runMicros (progBeforeLatch i) (issued (.writeString cs) s) =
      applyRun (runBeforeLatch (cs.take i.val) cs[i.val] s.lines) (issued (.writeString cs) s) := by
  have hbuf : ∀ (j : Fin Config.bufDepth) (h : j.val < cs.length), (issued (.writeString cs) s).buf[j] = cs[j.val] :=
    fun j h => (stringBuf_getElem cs s.buf j).trans (by simp [hl, h])
  have htake : (cs.take i.val).length = i.val := List.length_take_of_le (Nat.le_of_lt hi)
  have hcs := map_bufIndices_eq (cs := cs.take i.val) (b := (issued (.writeString cs) s).buf) (by omega)
    fun j h => (hbuf j (by omega)).trans List.getElem_take.symm
  rw [htake] at hcs
  rw [runMicros_progBeforeLatch hcs (by exact ht), hbuf i hi, issued_lines]

/-- `6 i + 6` micro-operations and `30 i + 10` ticks lead up to the latch of code number `i` (R154). -/
theorem runSteps_beforeLatch (ht : s.tmr = 0#8) (henv : s.env = []) :
    runSteps (36 * i.val + 16) (issued (.writeString cs) s) = .next (beforeLatch cs i.val cs[i.val] s) := by
  obtain ⟨rest, hprog⟩ := currentProg_issued_eq_progBeforeLatch_append hi hl s
  have hti : (issued (.writeString cs) s).tmr = 0#8 := ht
  have hsteps : (progBeforeLatch i).length + listTicks (progBeforeLatch i) = 36 * i.val + 16 := by
    rw [length_progBeforeLatch, listTicks_progBeforeLatch]
    omega
  rw [← hsteps, runSteps_list (progBeforeLatch i) _ rfl hti henv hprog, runMicros_progBeforeLatch_issued hi hl ht,
    length_progBeforeLatch, show (issued (.writeString cs) s).upc = 0#7 from rfl, BitVec.zero_add, beforeLatch]

/-- `SET E 0` comes next (R111, R154). -/
theorem nextMicro_beforeLatch (c : Byte) : nextMicro (beforeLatch cs i.val c s) = some (.set .e false) := by
  obtain ⟨rest, hprog⟩ := currentProg_issued_eq_progBeforeLatch_append hi hl s
  have hupc : (beforeLatch cs i.val c s).upc.toNat = (progBeforeLatch i).length := by
    rw [length_progBeforeLatch]
    exact Nat.mod_eq_of_lt (show 6 * i.val + 6 < 128 by omega)
  rw [nextMicro, hupc, show currentProg (beforeLatch cs i.val c s) = _ from hprog,
    List.getElem?_append_right (Nat.le_refl _), Nat.sub_self]
  rfl

end Latch

/-- `SET E 0` with E high sends the word on the lines (R38, R113). -/
theorem micro_enable_low_latched {s : State} (he : ctrl s.lines .e = true) :
    (micro (.set .e false) s).latched = s.latched ++ [busWord s.lines] :=
  congrArg (s.latched ++ ·) (if_pos ⟨rfl, rfl, he⟩)

/-- Code number `i` stands on the lines, RS high and RW as at issue (R38, R154). -/
theorem busWord_beforeLatch (cs : List Byte) (i : Nat) (c : Byte) (s : State) :
    busWord (beforeLatch cs i c s).lines = { rs := true, rw := ctrl s.lines .rw, data := c } := by
  simp [beforeLatch, applyRun, runBeforeLatch, busWord]

/-- Settles O42: `beforeLatch` is the state at that instant, and the `SET E 0` that follows sends the word on the lines. -/
theorem characterLatchInstants : Obligations.CharacterLatchInstants := by
  rintro s cs i hi ⟨hb, ht, henv, -⟩ hl
  have hrun := runSteps_beforeLatch (i := ⟨i, hi.trans_le hl⟩) hi hl ht henv
  have hstep := step_micro (s := beforeLatch cs i cs[i] s) rfl ht (.inl henv)
    (nextMicro_beforeLatch (i := ⟨i, hi.trans_le hl⟩) hi hl cs[i])
  have hhigh : ctrl (beforeLatch cs i cs[i] s).lines .e = true := rfl
  refine ⟨_, _, _, exec_idle (.writeString cs) hb, hrun, hstep, ?_, rfl, hhigh, rfl, ?_⟩
  · have hsent : (cs.take i).length = i := List.length_take_of_le (Nat.le_of_lt hi)
    show s.now + (30 * (cs.take i).length + 10) = _
    rw [hsent, Nat.add_assoc]
  · refine (micro_enable_low_latched (by exact hhigh)).trans ?_
    show (beforeLatch cs i cs[i] s).latched ++ [busWord (beforeLatch cs i cs[i] s).lines] = _
    rw [busWord_beforeLatch, List.take_succ_eq_append_getElem hi, List.map_append, ← List.append_assoc]
    rfl

end Sys2Proof.Machine
end

section
/-! SUPPORT. WRITE_CHAR_ARRAY from its ISSUE to BUSY = 0, and the same five codes as a string (R160 to R163). -/

namespace Sys2Proof.Machine

/-- Five codes pass the length guard, so as a string they make the same run (R150, R163). -/
theorem run_writeString_toList (a : Vector Byte Config.arrayLen) (ls : Lines) :
    run (.writeString a.toList) ls = run (.writeCharArray a) ls :=
  run_writeString_transmits (a.length_toList.trans_le (by decide)) ls

/-- 34 micro-operations, as WRITE_CHAR_ARRAY always transmits (R161, R162). -/
theorem run_writeCharArray_events_length (a : Vector Byte Config.arrayLen) (ls : Lines) :
    (run (.writeCharArray a) ls).events.length = 34 :=
  (runCharacters_events_length a.toList ls).trans (congrArg (4 + 6 * ·) a.length_toList)

/-- 30 ticks for each of the five codes (R162). -/
theorem run_writeCharArray_ticks (a : Vector Byte Config.arrayLen) (ls : Lines) :
    (run (.writeCharArray a) ls).ticks = 150 :=
  congrArg (30 * ·) a.length_toList

/-- The fifth code stays on DATA, and RW keeps its value (R162). -/
theorem run_writeCharArray_lines (a : Vector Byte Config.arrayLen) (ls : Lines) :
    (run (.writeCharArray a) ls).lines = lineVector false a[4] false (ctrl ls .rw) false := by
  have hlast : a.toList.getLast? = some a[4] := by
    rw [List.getLast?_eq_getElem?, a.length_toList]
    exact Vector.getElem?_toList.trans (Vector.getElem?_eq_getElem (by decide))
  show lineVector false (a.toList.getLast?.getD (readData ls)) false _ false = _
  rw [hlast, Option.getD_some]

/-- 34 micro-operations, 150 ticks and DONE (R162). -/
theorem eagerSteps_writeCharArray (a : Vector Byte Config.arrayLen) (ls : Lines) :
    eagerSteps (.writeCharArray a) ls = 185 := by
  rw [eagerSteps, run_writeCharArray_events_length, run_writeCharArray_ticks]

/-- As a string the five codes take the same number of steps (R163). -/
theorem eagerSteps_writeString_toList (a : Vector Byte Config.arrayLen) (ls : Lines) :
    eagerSteps (.writeString a.toList) ls = 185 := by
  rw [eagerSteps, run_writeString_toList, run_writeCharArray_events_length, run_writeCharArray_ticks]

/-- Settles O35: the eager run of an issued command is `Run`'s, and `Run` of WRITE_CHAR_ARRAY is the character protocol
on its five codes. -/
theorem writeCharArrayCompletes : Obligations.WriteCharArrayCompletes := by
  intro s a hs
  have hexec := exec_idle (.writeCharArray a) hs.busy
  have hrun := eagerRunEqualsBigStep (.writeCharArray a) s _ hs hexec
  refine ⟨_, arrayBuf a s.buf, hexec, ?_, arrayBuf_getElem a s.buf⟩
  rw [eagerSteps_writeCharArray] at hrun
  rw [hrun]
  simp only [afterRun, run_writeCharArray_events_length, run_writeCharArray_ticks, run_writeCharArray_lines, issued,
    hs.busy, hs.tmr]
  rfl

/-- Settles O40: the two commands have one `Run`, and the eager run of each is its `Run`. -/
theorem charArrayEqualsString : Obligations.CharArrayEqualsString := by
  intro s a hs
  have harray := exec_idle (.writeCharArray a) hs.busy
  have hstring := exec_idle (.writeString a.toList) hs.busy
  have hrunArray := eagerRunEqualsBigStep (.writeCharArray a) s _ hs harray
  have hrunString := eagerRunEqualsBigStep (.writeString a.toList) s _ hs hstring
  rw [eagerSteps_writeCharArray] at hrunArray
  rw [eagerSteps_writeString_toList] at hrunString
  have hsame := run_writeString_toList a s.lines
  refine ⟨_, _, _, _, harray, hrunArray, hstring, hrunString, ?_⟩
  simp only [afterRun, hsame, issued, and_self]

end Sys2Proof.Machine
end

section
/-! SUPPORT. RESET_LCD from its ISSUE to BUSY = 0, whatever the lines, and the level of LED on the way (R170 to R178). -/

namespace Sys2Proof.Machine

/-- 29 micro-operations for any command bytes (R171, R178). -/
theorem length_progResetLcd (c : Config.CmdBytes) : (progResetLcd c).length = 29 := rfl

/-- The micro-program of an issued RESET_LCD takes 29 MICRO steps and 13 ticks. E need not be low at issue: the
program writes every line (R172). -/
theorem runSteps_issued_resetLcd {s : State} (ht : s.tmr = 0#8) (henv : s.env = []) :
    runSteps 42 (issued .resetLcd s) =
      .next { applyRun (runResetLcd Config.params.cmds) (issued .resetLcd s) with upc := 29#7 } := by
  have hrun := runSteps_list (s := issued .resetLcd s) (progResetLcd Config.params.cmds) [] rfl ht henv rfl
  rwa [runMicros_progResetLcd _ (by exact ht)] at hrun

/-- An issued RESET_LCD has come to DONE after 43 steps, and has left its `Run` (R104, R172). -/
theorem runSteps_resetLcd {s : State} (ht : s.tmr = 0#8) (henv : s.env = []) :
    runSteps 43 (issued .resetLcd s) = .next (afterRun .resetLcd (issued .resetLcd s) s.lines) := by
  have hti : (issued .resetLcd s).tmr = 0#8 := ht
  rw [runSteps_add 42 1 (runSteps_issued_resetLcd ht henv),
    runSteps_done (by exact rfl) (by exact ht) (by exact henv) (by exact rfl), applyRun, hti]
  rfl

/-- Settles O32: `afterRun` is that state, RESET_LCD's `Run` written out. -/
theorem resetLcdCompletes : Obligations.ResetLcdCompletes := by
  intro s hb ht henv
  refine ⟨issued .resetLcd s, exec_idle .resetLcd hb, ?_⟩
  rw [runSteps_resetLcd ht henv, hb, ht]
  rfl

/-- Settles O39: the first RESET_LCD leaves an idle block with an empty script, so the second runs as the first did, and
what it adds does not depend on the lines it finds. -/
theorem resetLcdIsIdempotent : Obligations.ResetLcdIsIdempotent := by
  intro s hb ht henv
  exact ⟨_, _, _, _, exec_idle .resetLcd hb, runSteps_resetLcd ht henv, exec_idle .resetLcd rfl,
    runSteps_resetLcd rfl henv, rfl, rfl, (runResetLcd Config.params.cmds).words, rfl, rfl, rfl⟩

/-- Settles O41: the eager run of the program is `Run`'s for any command bytes. -/
theorem resetLcdForAnyCommandBytes : Obligations.ResetLcdForAnyCommandBytes :=
  fun c _ ht => ⟨length_progResetLcd c, runMicros_progResetLcd c ht⟩

/-- In RESET_LCD's program LED is high after `SET LED 1`, the fourth micro-operation, and before `SET LED 0`, the last
(R171, R175). -/
theorem levelAfter_led_take_progResetLcd : ∀ k ≤ 29,
    levelAfter .led false ((progResetLcd Config.params.cmds).take k) = true ↔ 4 ≤ k ∧ k ≤ 28 := by
  decide

/-- Settles O49: under `Inv` LED has the level that the executed part of the program gives it. -/
theorem ledDuringResetLcd : Obligations.LedDuringResetLcd := by
  intro s hi hb hop
  have hprog : currentProg s = progResetLcd Config.params.cmds := by rw [currentProg, hop, prog_resetLcd]
  have hupc : s.upc.toNat ≤ 29 := by
    rw [← length_progResetLcd Config.params.cmds, ← hprog]
    exact hi.upc hb
  rw [hi.levels hb .led, executed, hprog]
  exact levelAfter_led_take_progResetLcd s.upc.toNat hupc

end Sys2Proof.Machine
end

section
/-! SUPPORT. What a busy block leaves alone: the host's pending bytes and the operands latched at ISSUE (R66, R219). -/

namespace Sys2Proof.Machine

/-- The sequencer takes no byte from the host (R218, R219). -/
theorem sequencerStep_port (s : State) : (sequencerStep s).port = s.port := by
  obtain ⟨-, hs⟩ | ⟨-, m, -, hs⟩ | ⟨-, -, hs⟩ | ⟨-, -, hs⟩ := sequencerStep_cases s <;> simp [hs]

/-- Only ISSUE writes OP, LEN and BUF: no TICK, MICRO or DONE does (R66, R102). -/
theorem sequencerStep_operands (s : State) :
    (sequencerStep s).op = s.op ∧ (sequencerStep s).len = s.len ∧ (sequencerStep s).buf = s.buf := by
  obtain ⟨-, hs⟩ | ⟨-, m, -, hs⟩ | ⟨-, -, hs⟩ | ⟨-, -, hs⟩ := sequencerStep_cases s <;> simp [hs]

/-- Settles O16: a step of a busy block is a hardware reset, which keeps the pending bytes, a TICK, or the
sequencer's. -/
theorem busyHoldsTheHost : Obligations.BusyHoldsTheHost := by
  intro s t hb h
  obtain ⟨rest, he, rfl⟩ | ⟨rest, -, rfl⟩ | ⟨-, -, rfl⟩ | ⟨-, hi, -⟩ | ⟨-, hi, -⟩ := step_cases h
  · exact ⟨rfl, fun hr => absurd (by rw [he]; rfl) hr⟩
  · exact ⟨rfl, fun _ => ⟨rfl, rfl, rfl⟩⟩
  · exact ⟨sequencerStep_port { s with env := s.env.tail },
      fun _ => sequencerStep_operands { s with env := s.env.tail }⟩
  · exact absurd (hb.symm.trans hi) Bool.noConfusion
  · exact absurd (hb.symm.trans hi) Bool.noConfusion

end Sys2Proof.Machine
end

section
/-! SUPPORT. Hardware reset, idle time, and the lines the display samples while E is high (R230, R231, R241). -/

namespace Sys2Proof.Machine

/-- Every line is low right after reset (R39). -/
theorem reset_lines (i : Fin 12) : State.reset.lines[i] = false := by
  revert i; decide

/-- Settles O19: `hardwareReset` writes all but the pending inputs and the one word it may latch. -/
theorem hardwareResetGivesResetState : Obligations.HardwareResetGivesResetState := by
  intro s rest he
  exact ⟨_, step_reset he, reset_lines, rfl, rfl, rfl, rfl, rfl, fun hlow => if_neg (by simp [hlow]),
    fun hhigh => ⟨_, if_pos hhigh⟩, rfl, rfl, inv_hardwareReset _⟩

/-- An idle block with nothing pending and no move scripted only lets time pass (R231). -/
theorem step_idle_unscripted {s : State} (hb : s.busy = false) (ht : s.tmr = 0#8) (hp : s.port = [])
    (he : s.env = []) : step s = .next { s with now := s.now + 1 } := by
  rw [step_idle (.inl he) hb hp]
  simp [tick, ht, he]

/-- Settles O18, by induction on the number of steps: the state stays idle, whatever NOW is. -/
theorem idleOnlyAdvancesNow : Obligations.IdleOnlyAdvancesNow := by
  intro s k hb ht hp he
  induction k generalizing s with
  | zero => rfl
  | succ k ih =>
    rw [runSteps_next (step_idle_unscripted hb ht hp he), ih { s with now := s.now + 1 } hb ht hp he]
    simp only [Nat.add_assoc, Nat.add_comm 1 k]

/-- Does this micro-operation write no line other than E? -/
def sparesOtherLines : MicroOp → Bool
  | .set c _ => c == .e
  | .clear   => false
  | .load _  => false
  | .delay _ => true

theorem execMicro_line_of_sparesOtherLines {m : MicroOp} (h : sparesOtherLines m = true) (s : State) {i : Fin 12}
    (hi : i ≠ 9) : (execMicro m s).lines[i] = s.lines[i] := by
  cases m with
  | set c b =>
    obtain rfl : c = .e := by simpa [sparesOtherLines] using h
    exact Vector.getElem_set_ne (ctrlIndex .e).isLt i.isLt fun h9 => hi (Fin.ext h9.symm)
  | clear | load => cases h
  | delay n => rfl

/-- While E is high, a micro-program writes no other line (R112, R241). -/
theorem prog_spares_lines_enable_high {o : Op} {len : BitVec Config.lenWidth} {k : Nat} {m : MicroOp}
    (hn : (prog o len)[k]? = some m) (he : levelAfter .e false ((prog o len).take k) = true) :
    sparesOtherLines m = true := by
  have hall : ((prog o len)[k]?).all sparesOtherLines = true :=
    prog_of_everyProg
      (P := fun _ p => ∀ k < p.length, levelAfter .e false (p.take k) = true → (p[k]?).all sparesOtherLines = true)
      (by decide +kernel) o len k (List.getElem?_eq_some_iff.1 hn).1 he
  rwa [hn] at hall

/-- Settles O47: a step that writes a line is a MICRO, and the invariant ties the level of E to the micro-program. -/
theorem linesStableWhileEnableHigh : Obligations.LinesStableWhileEnableHigh := by
  intro s t hi h hr he i hne
  obtain ⟨hl, -⟩ | ⟨hb, -, -, m, hn, rfl⟩ := step_quiet_or_micro h hr
  · rw [hl]
  · have hlevel : levelAfter .e false (executed s) = true := (hi.levels hb .e).symm.trans he
    exact execMicro_line_of_sparesOtherLines (prog_spares_lines_enable_high hn hlevel) _ hne

end Sys2Proof.Machine
end
